-- ==== Sys2Proof/Word.lean ====
section
/-! DEFINITION. The two widths of the block (00_scope.md R5: DATA_WIDTH 8, ADDR_WIDTH 16). Their plain arithmetic is
`BitVec`'s, which wraps modulo the width (R6). -/

namespace Sys2Proof

/-- A byte: the only width of a bus access and of `A X Y S` (00_scope.md R6, 20_memory.md R72). -/
abbrev Byte := BitVec 8

/-- A 16-bit value: an address, or the program counter (10_state.md R25, 20_memory.md R60). -/
abbrev Word := BitVec 16

end Sys2Proof
end

