-- ==== Sys2Proof/Machine/Bits.lean ====
section
/-! DEFINITION. Byte order and sign extension: the notation of 00_scope.md R6. -/

namespace Sys2Proof.Machine

/-- `{h, l}`: the 16-bit value `h * 256 + l` (00_scope.md R6). -/
def word (h l : Byte) : Word := h ++ l

/-- `hi(w)` (00_scope.md R6). -/
def hiByte (w : Word) : Byte := w.extractLsb' 8 8

/-- `lo(w)` (00_scope.md R6). -/
def loByte (w : Word) : Byte := w.extractLsb' 0 8

/-- `zext_16(v)` (00_scope.md R6): a zero-page address. -/
def zext16 (v : Byte) : Word := v.setWidth 16

/-- `sext_8(v)` added to an address modulo 65,536 (00_scope.md R6, 30_encoding.md R93). -/
def sext16 (v : Byte) : Word := v.signExtend 16

/-- `v[i]` of a byte (00_scope.md R6). -/
def bit (v : Byte) (i : Nat) : Bool := v.getLsbD i

end Sys2Proof.Machine
end

