-- ==== Sys2Proof/Syntax.lean ====
section
/-! DEFINITION. The instruction set: one constructor of `Instr` for each defined row of spec/opcode_table.json
(30_encoding.md R94, R95), with the row's operand bytes as its arguments, assembled as R93 says, and one constructor
for the 105 rows whose mnemonic is `JAM` (R97, R270), whose argument is the opcode value. -/

namespace Sys2Proof

/-- An instruction. The last part of a constructor's name is the row's format (30_encoding.md R91); formats `IMP` and
`REL`, and `JSR`'s only format, are not written. Arguments: `imm8`, `zp8`, `rel8` and `abs16` of R93. -/
inductive Instr where
  -- Loads, stores, register transfers (41_load_store_transfer.md)
  /-- `LDA` format `IMM`, opcode `A9` (R170). -/
  | ldaImm (imm8 : Byte)
  /-- `LDA` format `ZP`, opcode `A5` (R170). -/
  | ldaZp (zp8 : Byte)
  /-- `LDA` format `ZPX`, opcode `B5` (R170). -/
  | ldaZpx (zp8 : Byte)
  /-- `LDA` format `ABS`, opcode `AD` (R170). -/
  | ldaAbs (abs16 : Word)
  /-- `LDA` format `ABSX`, opcode `BD` (R170). -/
  | ldaAbsx (abs16 : Word)
  /-- `LDA` format `ABSY`, opcode `B9` (R170). -/
  | ldaAbsy (abs16 : Word)
  /-- `LDA` format `INDX`, opcode `A1` (R170). -/
  | ldaIndx (zp8 : Byte)
  /-- `LDA` format `INDY`, opcode `B1` (R170). -/
  | ldaIndy (zp8 : Byte)
  /-- `LDX` format `IMM`, opcode `A2` (R171). -/
  | ldxImm (imm8 : Byte)
  /-- `LDX` format `ZP`, opcode `A6` (R171). -/
  | ldxZp (zp8 : Byte)
  /-- `LDX` format `ZPY`, opcode `B6` (R171). -/
  | ldxZpy (zp8 : Byte)
  /-- `LDX` format `ABS`, opcode `AE` (R171). -/
  | ldxAbs (abs16 : Word)
  /-- `LDX` format `ABSY`, opcode `BE` (R171). -/
  | ldxAbsy (abs16 : Word)
  /-- `LDY` format `IMM`, opcode `A0` (R172). -/
  | ldyImm (imm8 : Byte)
  /-- `LDY` format `ZP`, opcode `A4` (R172). -/
  | ldyZp (zp8 : Byte)
  /-- `LDY` format `ZPX`, opcode `B4` (R172). -/
  | ldyZpx (zp8 : Byte)
  /-- `LDY` format `ABS`, opcode `AC` (R172). -/
  | ldyAbs (abs16 : Word)
  /-- `LDY` format `ABSX`, opcode `BC` (R172). -/
  | ldyAbsx (abs16 : Word)
  /-- `STA` format `ZP`, opcode `85` (R173). -/
  | staZp (zp8 : Byte)
  /-- `STA` format `ZPX`, opcode `95` (R173). -/
  | staZpx (zp8 : Byte)
  /-- `STA` format `ABS`, opcode `8D` (R173). -/
  | staAbs (abs16 : Word)
  /-- `STA` format `ABSX`, opcode `9D` (R173). -/
  | staAbsx (abs16 : Word)
  /-- `STA` format `ABSY`, opcode `99` (R173). -/
  | staAbsy (abs16 : Word)
  /-- `STA` format `INDX`, opcode `81` (R173). -/
  | staIndx (zp8 : Byte)
  /-- `STA` format `INDY`, opcode `91` (R173). -/
  | staIndy (zp8 : Byte)
  /-- `STX` format `ZP`, opcode `86` (R174). -/
  | stxZp (zp8 : Byte)
  /-- `STX` format `ZPY`, opcode `96` (R174). -/
  | stxZpy (zp8 : Byte)
  /-- `STX` format `ABS`, opcode `8E` (R174). -/
  | stxAbs (abs16 : Word)
  /-- `STY` format `ZP`, opcode `84` (R175). -/
  | styZp (zp8 : Byte)
  /-- `STY` format `ZPX`, opcode `94` (R175). -/
  | styZpx (zp8 : Byte)
  /-- `STY` format `ABS`, opcode `8C` (R175). -/
  | styAbs (abs16 : Word)
  /-- `TAX` format `IMP`, opcode `AA` (R176). -/
  | tax
  /-- `TAY` format `IMP`, opcode `A8` (R177). -/
  | tay
  /-- `TXA` format `IMP`, opcode `8A` (R178). -/
  | txa
  /-- `TYA` format `IMP`, opcode `98` (R179). -/
  | tya
  /-- `TSX` format `IMP`, opcode `BA` (R180). -/
  | tsx
  /-- `TXS` format `IMP`, opcode `9A` (R181). -/
  | txs
  -- Arithmetic, logic, compare, bit test (42_arithmetic_logic.md)
  /-- `ADC` format `IMM`, opcode `69` (R191). -/
  | adcImm (imm8 : Byte)
  /-- `ADC` format `ZP`, opcode `65` (R191). -/
  | adcZp (zp8 : Byte)
  /-- `ADC` format `ZPX`, opcode `75` (R191). -/
  | adcZpx (zp8 : Byte)
  /-- `ADC` format `ABS`, opcode `6D` (R191). -/
  | adcAbs (abs16 : Word)
  /-- `ADC` format `ABSX`, opcode `7D` (R191). -/
  | adcAbsx (abs16 : Word)
  /-- `ADC` format `ABSY`, opcode `79` (R191). -/
  | adcAbsy (abs16 : Word)
  /-- `ADC` format `INDX`, opcode `61` (R191). -/
  | adcIndx (zp8 : Byte)
  /-- `ADC` format `INDY`, opcode `71` (R191). -/
  | adcIndy (zp8 : Byte)
  /-- `SBC` format `IMM`, opcode `E9` (R193). -/
  | sbcImm (imm8 : Byte)
  /-- `SBC` format `ZP`, opcode `E5` (R193). -/
  | sbcZp (zp8 : Byte)
  /-- `SBC` format `ZPX`, opcode `F5` (R193). -/
  | sbcZpx (zp8 : Byte)
  /-- `SBC` format `ABS`, opcode `ED` (R193). -/
  | sbcAbs (abs16 : Word)
  /-- `SBC` format `ABSX`, opcode `FD` (R193). -/
  | sbcAbsx (abs16 : Word)
  /-- `SBC` format `ABSY`, opcode `F9` (R193). -/
  | sbcAbsy (abs16 : Word)
  /-- `SBC` format `INDX`, opcode `E1` (R193). -/
  | sbcIndx (zp8 : Byte)
  /-- `SBC` format `INDY`, opcode `F1` (R193). -/
  | sbcIndy (zp8 : Byte)
  /-- `AND` format `IMM`, opcode `29` (R195). -/
  | andImm (imm8 : Byte)
  /-- `AND` format `ZP`, opcode `25` (R195). -/
  | andZp (zp8 : Byte)
  /-- `AND` format `ZPX`, opcode `35` (R195). -/
  | andZpx (zp8 : Byte)
  /-- `AND` format `ABS`, opcode `2D` (R195). -/
  | andAbs (abs16 : Word)
  /-- `AND` format `ABSX`, opcode `3D` (R195). -/
  | andAbsx (abs16 : Word)
  /-- `AND` format `ABSY`, opcode `39` (R195). -/
  | andAbsy (abs16 : Word)
  /-- `AND` format `INDX`, opcode `21` (R195). -/
  | andIndx (zp8 : Byte)
  /-- `AND` format `INDY`, opcode `31` (R195). -/
  | andIndy (zp8 : Byte)
  /-- `ORA` format `IMM`, opcode `09` (R196). -/
  | oraImm (imm8 : Byte)
  /-- `ORA` format `ZP`, opcode `05` (R196). -/
  | oraZp (zp8 : Byte)
  /-- `ORA` format `ZPX`, opcode `15` (R196). -/
  | oraZpx (zp8 : Byte)
  /-- `ORA` format `ABS`, opcode `0D` (R196). -/
  | oraAbs (abs16 : Word)
  /-- `ORA` format `ABSX`, opcode `1D` (R196). -/
  | oraAbsx (abs16 : Word)
  /-- `ORA` format `ABSY`, opcode `19` (R196). -/
  | oraAbsy (abs16 : Word)
  /-- `ORA` format `INDX`, opcode `01` (R196). -/
  | oraIndx (zp8 : Byte)
  /-- `ORA` format `INDY`, opcode `11` (R196). -/
  | oraIndy (zp8 : Byte)
  /-- `EOR` format `IMM`, opcode `49` (R197). -/
  | eorImm (imm8 : Byte)
  /-- `EOR` format `ZP`, opcode `45` (R197). -/
  | eorZp (zp8 : Byte)
  /-- `EOR` format `ZPX`, opcode `55` (R197). -/
  | eorZpx (zp8 : Byte)
  /-- `EOR` format `ABS`, opcode `4D` (R197). -/
  | eorAbs (abs16 : Word)
  /-- `EOR` format `ABSX`, opcode `5D` (R197). -/
  | eorAbsx (abs16 : Word)
  /-- `EOR` format `ABSY`, opcode `59` (R197). -/
  | eorAbsy (abs16 : Word)
  /-- `EOR` format `INDX`, opcode `41` (R197). -/
  | eorIndx (zp8 : Byte)
  /-- `EOR` format `INDY`, opcode `51` (R197). -/
  | eorIndy (zp8 : Byte)
  /-- `CMP` format `IMM`, opcode `C9` (R198). -/
  | cmpImm (imm8 : Byte)
  /-- `CMP` format `ZP`, opcode `C5` (R198). -/
  | cmpZp (zp8 : Byte)
  /-- `CMP` format `ZPX`, opcode `D5` (R198). -/
  | cmpZpx (zp8 : Byte)
  /-- `CMP` format `ABS`, opcode `CD` (R198). -/
  | cmpAbs (abs16 : Word)
  /-- `CMP` format `ABSX`, opcode `DD` (R198). -/
  | cmpAbsx (abs16 : Word)
  /-- `CMP` format `ABSY`, opcode `D9` (R198). -/
  | cmpAbsy (abs16 : Word)
  /-- `CMP` format `INDX`, opcode `C1` (R198). -/
  | cmpIndx (zp8 : Byte)
  /-- `CMP` format `INDY`, opcode `D1` (R198). -/
  | cmpIndy (zp8 : Byte)
  /-- `CPX` format `IMM`, opcode `E0` (R199). -/
  | cpxImm (imm8 : Byte)
  /-- `CPX` format `ZP`, opcode `E4` (R199). -/
  | cpxZp (zp8 : Byte)
  /-- `CPX` format `ABS`, opcode `EC` (R199). -/
  | cpxAbs (abs16 : Word)
  /-- `CPY` format `IMM`, opcode `C0` (R200). -/
  | cpyImm (imm8 : Byte)
  /-- `CPY` format `ZP`, opcode `C4` (R200). -/
  | cpyZp (zp8 : Byte)
  /-- `CPY` format `ABS`, opcode `CC` (R200). -/
  | cpyAbs (abs16 : Word)
  /-- `BIT` format `ZP`, opcode `24` (R201). -/
  | bitZp (zp8 : Byte)
  /-- `BIT` format `ABS`, opcode `2C` (R201). -/
  | bitAbs (abs16 : Word)
  -- Shifts, rotates, increments, decrements (43_shift_incdec.md)
  /-- `ASL` format `ACC`, opcode `0A` (R210). -/
  | aslAcc
  /-- `ASL` format `ZP`, opcode `06` (R210). -/
  | aslZp (zp8 : Byte)
  /-- `ASL` format `ZPX`, opcode `16` (R210). -/
  | aslZpx (zp8 : Byte)
  /-- `ASL` format `ABS`, opcode `0E` (R210). -/
  | aslAbs (abs16 : Word)
  /-- `ASL` format `ABSX`, opcode `1E` (R210). -/
  | aslAbsx (abs16 : Word)
  /-- `LSR` format `ACC`, opcode `4A` (R211). -/
  | lsrAcc
  /-- `LSR` format `ZP`, opcode `46` (R211). -/
  | lsrZp (zp8 : Byte)
  /-- `LSR` format `ZPX`, opcode `56` (R211). -/
  | lsrZpx (zp8 : Byte)
  /-- `LSR` format `ABS`, opcode `4E` (R211). -/
  | lsrAbs (abs16 : Word)
  /-- `LSR` format `ABSX`, opcode `5E` (R211). -/
  | lsrAbsx (abs16 : Word)
  /-- `ROL` format `ACC`, opcode `2A` (R212). -/
  | rolAcc
  /-- `ROL` format `ZP`, opcode `26` (R212). -/
  | rolZp (zp8 : Byte)
  /-- `ROL` format `ZPX`, opcode `36` (R212). -/
  | rolZpx (zp8 : Byte)
  /-- `ROL` format `ABS`, opcode `2E` (R212). -/
  | rolAbs (abs16 : Word)
  /-- `ROL` format `ABSX`, opcode `3E` (R212). -/
  | rolAbsx (abs16 : Word)
  /-- `ROR` format `ACC`, opcode `6A` (R213). -/
  | rorAcc
  /-- `ROR` format `ZP`, opcode `66` (R213). -/
  | rorZp (zp8 : Byte)
  /-- `ROR` format `ZPX`, opcode `76` (R213). -/
  | rorZpx (zp8 : Byte)
  /-- `ROR` format `ABS`, opcode `6E` (R213). -/
  | rorAbs (abs16 : Word)
  /-- `ROR` format `ABSX`, opcode `7E` (R213). -/
  | rorAbsx (abs16 : Word)
  /-- `INC` format `ZP`, opcode `E6` (R214). -/
  | incZp (zp8 : Byte)
  /-- `INC` format `ZPX`, opcode `F6` (R214). -/
  | incZpx (zp8 : Byte)
  /-- `INC` format `ABS`, opcode `EE` (R214). -/
  | incAbs (abs16 : Word)
  /-- `INC` format `ABSX`, opcode `FE` (R214). -/
  | incAbsx (abs16 : Word)
  /-- `DEC` format `ZP`, opcode `C6` (R215). -/
  | decZp (zp8 : Byte)
  /-- `DEC` format `ZPX`, opcode `D6` (R215). -/
  | decZpx (zp8 : Byte)
  /-- `DEC` format `ABS`, opcode `CE` (R215). -/
  | decAbs (abs16 : Word)
  /-- `DEC` format `ABSX`, opcode `DE` (R215). -/
  | decAbsx (abs16 : Word)
  /-- `INX` format `IMP`, opcode `E8` (R216). -/
  | inx
  /-- `INY` format `IMP`, opcode `C8` (R217). -/
  | iny
  /-- `DEX` format `IMP`, opcode `CA` (R218). -/
  | dex
  /-- `DEY` format `IMP`, opcode `88` (R219). -/
  | dey
  -- Jumps, subroutines, branches, BRK, RTI (44_control_flow.md)
  /-- `JMP` format `ABS`, opcode `4C` (R231). -/
  | jmpAbs (abs16 : Word)
  /-- `JMP` format `IND`, opcode `6C` (R232). -/
  | jmpInd (abs16 : Word)
  /-- `JSR` format `ABS`, opcode `20` (R233). -/
  | jsr (abs16 : Word)
  /-- `RTS` format `IMP`, opcode `60` (R234). -/
  | rts
  /-- `BCC` format `REL`, opcode `90` (R235). -/
  | bcc (rel8 : Byte)
  /-- `BCS` format `REL`, opcode `B0` (R236). -/
  | bcs (rel8 : Byte)
  /-- `BEQ` format `REL`, opcode `F0` (R237). -/
  | beq (rel8 : Byte)
  /-- `BNE` format `REL`, opcode `D0` (R238). -/
  | bne (rel8 : Byte)
  /-- `BMI` format `REL`, opcode `30` (R239). -/
  | bmi (rel8 : Byte)
  /-- `BPL` format `REL`, opcode `10` (R240). -/
  | bpl (rel8 : Byte)
  /-- `BVC` format `REL`, opcode `50` (R241). -/
  | bvc (rel8 : Byte)
  /-- `BVS` format `REL`, opcode `70` (R242). -/
  | bvs (rel8 : Byte)
  /-- `BRK` format `IMP`, opcode `00` (R243). -/
  | brk
  /-- `RTI` format `IMP`, opcode `40` (R244). -/
  | rti
  -- Stack, flag and no-operation instructions (45_stack_flags_nop.md)
  /-- `PHA` format `IMP`, opcode `48` (R250). -/
  | pha
  /-- `PHP` format `IMP`, opcode `08` (R251). -/
  | php
  /-- `PLA` format `IMP`, opcode `68` (R252). -/
  | pla
  /-- `PLP` format `IMP`, opcode `28` (R253). -/
  | plp
  /-- `CLC` format `IMP`, opcode `18` (R254). -/
  | clc
  /-- `SEC` format `IMP`, opcode `38` (R255). -/
  | sec
  /-- `CLI` format `IMP`, opcode `58` (R256). -/
  | cli
  /-- `SEI` format `IMP`, opcode `78` (R257). -/
  | sei
  /-- `CLD` format `IMP`, opcode `D8` (R258). -/
  | cld
  /-- `SED` format `IMP`, opcode `F8` (R259). -/
  | sed
  /-- `CLV` format `IMP`, opcode `B8` (R260). -/
  | clv
  /-- `NOP` format `IMP`, opcode `EA` (R261). -/
  | nop
  -- Undefined opcodes (46_undefined_opcodes.md)
  /-- `JAM`, format `UNDEF`: any of the 105 opcode values of 30_encoding.md R97 (R270). -/
  | jam (opcode : Byte)
  deriving DecidableEq, Repr

end Sys2Proof
end

