-- ==== Sys2Proof/Decode.lean ====
section
/-! DEFINITION. Decoding: the opcode table row by row (30_encoding.md R94, R95; spec/opcode_table.json), the decoder, the
encoder, and the rendering of 30_encoding.md R100. The decoder is total (R99): a defined opcode gives its row's
instruction, any other opcode gives `jam`; a list of bytes that ends before the instruction does is rejected by name. -/

namespace Sys2Proof

/-- The thirteen formats and the undefined one (30_encoding.md R91; the table's `format`). -/
inductive Format where
  | imp | acc | imm | zp | zpx | zpy | abs | absx | absy | ind | indx | indy | rel | undef
  deriving DecidableEq, Repr

/-- The length column of 30_encoding.md R91; an undefined opcode has length 1 (R92). -/
def Format.length : Format → Nat
  | .imp | .acc | .undef => 1
  | .imm | .zp | .zpx | .zpy | .indx | .indy | .rel => 2
  | .abs | .absx | .absy | .ind => 3

/-- The extra cycles of a row (30_encoding.md R95): none, `+p` or `+b`. -/
inductive ExtraCycles where
  | none | page | branch
  deriving DecidableEq, Repr

/-- What a row makes of the operand bytes (30_encoding.md R93). -/
inductive Build where
  | none (i : Instr)
  | byte (f : Byte → Instr)
  | word (f : Word → Instr)

/-- One row of the opcode table (30_encoding.md R95). -/
structure Row where
  opcode : Byte
  mnemonic : String
  format : Format
  cycles : Nat
  extra : ExtraCycles
  build : Build

/-- Loads, stores, register transfers (41_load_store_transfer.md): the rows of opcode_table.json. -/
def opcodeRowsLoadStore : List Row := [
  ⟨0xA9, "LDA", .imm, 2, .none, .byte .ldaImm⟩,
  ⟨0xA5, "LDA", .zp, 3, .none, .byte .ldaZp⟩,
  ⟨0xB5, "LDA", .zpx, 4, .none, .byte .ldaZpx⟩,
  ⟨0xAD, "LDA", .abs, 4, .none, .word .ldaAbs⟩,
  ⟨0xBD, "LDA", .absx, 4, .page, .word .ldaAbsx⟩,
  ⟨0xB9, "LDA", .absy, 4, .page, .word .ldaAbsy⟩,
  ⟨0xA1, "LDA", .indx, 6, .none, .byte .ldaIndx⟩,
  ⟨0xB1, "LDA", .indy, 5, .page, .byte .ldaIndy⟩,
  ⟨0xA2, "LDX", .imm, 2, .none, .byte .ldxImm⟩,
  ⟨0xA6, "LDX", .zp, 3, .none, .byte .ldxZp⟩,
  ⟨0xB6, "LDX", .zpy, 4, .none, .byte .ldxZpy⟩,
  ⟨0xAE, "LDX", .abs, 4, .none, .word .ldxAbs⟩,
  ⟨0xBE, "LDX", .absy, 4, .page, .word .ldxAbsy⟩,
  ⟨0xA0, "LDY", .imm, 2, .none, .byte .ldyImm⟩,
  ⟨0xA4, "LDY", .zp, 3, .none, .byte .ldyZp⟩,
  ⟨0xB4, "LDY", .zpx, 4, .none, .byte .ldyZpx⟩,
  ⟨0xAC, "LDY", .abs, 4, .none, .word .ldyAbs⟩,
  ⟨0xBC, "LDY", .absx, 4, .page, .word .ldyAbsx⟩,
  ⟨0x85, "STA", .zp, 3, .none, .byte .staZp⟩,
  ⟨0x95, "STA", .zpx, 4, .none, .byte .staZpx⟩,
  ⟨0x8D, "STA", .abs, 4, .none, .word .staAbs⟩,
  ⟨0x9D, "STA", .absx, 5, .none, .word .staAbsx⟩,
  ⟨0x99, "STA", .absy, 5, .none, .word .staAbsy⟩,
  ⟨0x81, "STA", .indx, 6, .none, .byte .staIndx⟩,
  ⟨0x91, "STA", .indy, 6, .none, .byte .staIndy⟩,
  ⟨0x86, "STX", .zp, 3, .none, .byte .stxZp⟩,
  ⟨0x96, "STX", .zpy, 4, .none, .byte .stxZpy⟩,
  ⟨0x8E, "STX", .abs, 4, .none, .word .stxAbs⟩,
  ⟨0x84, "STY", .zp, 3, .none, .byte .styZp⟩,
  ⟨0x94, "STY", .zpx, 4, .none, .byte .styZpx⟩,
  ⟨0x8C, "STY", .abs, 4, .none, .word .styAbs⟩,
  ⟨0xAA, "TAX", .imp, 2, .none, .none .tax⟩,
  ⟨0xA8, "TAY", .imp, 2, .none, .none .tay⟩,
  ⟨0x8A, "TXA", .imp, 2, .none, .none .txa⟩,
  ⟨0x98, "TYA", .imp, 2, .none, .none .tya⟩,
  ⟨0xBA, "TSX", .imp, 2, .none, .none .tsx⟩,
  ⟨0x9A, "TXS", .imp, 2, .none, .none .txs⟩]

/-- Arithmetic, logic, compare, bit test (42_arithmetic_logic.md): the rows of opcode_table.json. -/
def opcodeRowsArith : List Row := [
  ⟨0x69, "ADC", .imm, 2, .none, .byte .adcImm⟩,
  ⟨0x65, "ADC", .zp, 3, .none, .byte .adcZp⟩,
  ⟨0x75, "ADC", .zpx, 4, .none, .byte .adcZpx⟩,
  ⟨0x6D, "ADC", .abs, 4, .none, .word .adcAbs⟩,
  ⟨0x7D, "ADC", .absx, 4, .page, .word .adcAbsx⟩,
  ⟨0x79, "ADC", .absy, 4, .page, .word .adcAbsy⟩,
  ⟨0x61, "ADC", .indx, 6, .none, .byte .adcIndx⟩,
  ⟨0x71, "ADC", .indy, 5, .page, .byte .adcIndy⟩,
  ⟨0xE9, "SBC", .imm, 2, .none, .byte .sbcImm⟩,
  ⟨0xE5, "SBC", .zp, 3, .none, .byte .sbcZp⟩,
  ⟨0xF5, "SBC", .zpx, 4, .none, .byte .sbcZpx⟩,
  ⟨0xED, "SBC", .abs, 4, .none, .word .sbcAbs⟩,
  ⟨0xFD, "SBC", .absx, 4, .page, .word .sbcAbsx⟩,
  ⟨0xF9, "SBC", .absy, 4, .page, .word .sbcAbsy⟩,
  ⟨0xE1, "SBC", .indx, 6, .none, .byte .sbcIndx⟩,
  ⟨0xF1, "SBC", .indy, 5, .page, .byte .sbcIndy⟩,
  ⟨0x29, "AND", .imm, 2, .none, .byte .andImm⟩,
  ⟨0x25, "AND", .zp, 3, .none, .byte .andZp⟩,
  ⟨0x35, "AND", .zpx, 4, .none, .byte .andZpx⟩,
  ⟨0x2D, "AND", .abs, 4, .none, .word .andAbs⟩,
  ⟨0x3D, "AND", .absx, 4, .page, .word .andAbsx⟩,
  ⟨0x39, "AND", .absy, 4, .page, .word .andAbsy⟩,
  ⟨0x21, "AND", .indx, 6, .none, .byte .andIndx⟩,
  ⟨0x31, "AND", .indy, 5, .page, .byte .andIndy⟩,
  ⟨0x09, "ORA", .imm, 2, .none, .byte .oraImm⟩,
  ⟨0x05, "ORA", .zp, 3, .none, .byte .oraZp⟩,
  ⟨0x15, "ORA", .zpx, 4, .none, .byte .oraZpx⟩,
  ⟨0x0D, "ORA", .abs, 4, .none, .word .oraAbs⟩,
  ⟨0x1D, "ORA", .absx, 4, .page, .word .oraAbsx⟩,
  ⟨0x19, "ORA", .absy, 4, .page, .word .oraAbsy⟩,
  ⟨0x01, "ORA", .indx, 6, .none, .byte .oraIndx⟩,
  ⟨0x11, "ORA", .indy, 5, .page, .byte .oraIndy⟩,
  ⟨0x49, "EOR", .imm, 2, .none, .byte .eorImm⟩,
  ⟨0x45, "EOR", .zp, 3, .none, .byte .eorZp⟩,
  ⟨0x55, "EOR", .zpx, 4, .none, .byte .eorZpx⟩,
  ⟨0x4D, "EOR", .abs, 4, .none, .word .eorAbs⟩,
  ⟨0x5D, "EOR", .absx, 4, .page, .word .eorAbsx⟩,
  ⟨0x59, "EOR", .absy, 4, .page, .word .eorAbsy⟩,
  ⟨0x41, "EOR", .indx, 6, .none, .byte .eorIndx⟩,
  ⟨0x51, "EOR", .indy, 5, .page, .byte .eorIndy⟩,
  ⟨0xC9, "CMP", .imm, 2, .none, .byte .cmpImm⟩,
  ⟨0xC5, "CMP", .zp, 3, .none, .byte .cmpZp⟩,
  ⟨0xD5, "CMP", .zpx, 4, .none, .byte .cmpZpx⟩,
  ⟨0xCD, "CMP", .abs, 4, .none, .word .cmpAbs⟩,
  ⟨0xDD, "CMP", .absx, 4, .page, .word .cmpAbsx⟩,
  ⟨0xD9, "CMP", .absy, 4, .page, .word .cmpAbsy⟩,
  ⟨0xC1, "CMP", .indx, 6, .none, .byte .cmpIndx⟩,
  ⟨0xD1, "CMP", .indy, 5, .page, .byte .cmpIndy⟩,
  ⟨0xE0, "CPX", .imm, 2, .none, .byte .cpxImm⟩,
  ⟨0xE4, "CPX", .zp, 3, .none, .byte .cpxZp⟩,
  ⟨0xEC, "CPX", .abs, 4, .none, .word .cpxAbs⟩,
  ⟨0xC0, "CPY", .imm, 2, .none, .byte .cpyImm⟩,
  ⟨0xC4, "CPY", .zp, 3, .none, .byte .cpyZp⟩,
  ⟨0xCC, "CPY", .abs, 4, .none, .word .cpyAbs⟩,
  ⟨0x24, "BIT", .zp, 3, .none, .byte .bitZp⟩,
  ⟨0x2C, "BIT", .abs, 4, .none, .word .bitAbs⟩]

/-- Shifts, rotates, increments, decrements (43_shift_incdec.md): the rows of opcode_table.json. -/
def opcodeRowsShift : List Row := [
  ⟨0x0A, "ASL", .acc, 2, .none, .none .aslAcc⟩,
  ⟨0x06, "ASL", .zp, 5, .none, .byte .aslZp⟩,
  ⟨0x16, "ASL", .zpx, 6, .none, .byte .aslZpx⟩,
  ⟨0x0E, "ASL", .abs, 6, .none, .word .aslAbs⟩,
  ⟨0x1E, "ASL", .absx, 7, .none, .word .aslAbsx⟩,
  ⟨0x4A, "LSR", .acc, 2, .none, .none .lsrAcc⟩,
  ⟨0x46, "LSR", .zp, 5, .none, .byte .lsrZp⟩,
  ⟨0x56, "LSR", .zpx, 6, .none, .byte .lsrZpx⟩,
  ⟨0x4E, "LSR", .abs, 6, .none, .word .lsrAbs⟩,
  ⟨0x5E, "LSR", .absx, 7, .none, .word .lsrAbsx⟩,
  ⟨0x2A, "ROL", .acc, 2, .none, .none .rolAcc⟩,
  ⟨0x26, "ROL", .zp, 5, .none, .byte .rolZp⟩,
  ⟨0x36, "ROL", .zpx, 6, .none, .byte .rolZpx⟩,
  ⟨0x2E, "ROL", .abs, 6, .none, .word .rolAbs⟩,
  ⟨0x3E, "ROL", .absx, 7, .none, .word .rolAbsx⟩,
  ⟨0x6A, "ROR", .acc, 2, .none, .none .rorAcc⟩,
  ⟨0x66, "ROR", .zp, 5, .none, .byte .rorZp⟩,
  ⟨0x76, "ROR", .zpx, 6, .none, .byte .rorZpx⟩,
  ⟨0x6E, "ROR", .abs, 6, .none, .word .rorAbs⟩,
  ⟨0x7E, "ROR", .absx, 7, .none, .word .rorAbsx⟩,
  ⟨0xE6, "INC", .zp, 5, .none, .byte .incZp⟩,
  ⟨0xF6, "INC", .zpx, 6, .none, .byte .incZpx⟩,
  ⟨0xEE, "INC", .abs, 6, .none, .word .incAbs⟩,
  ⟨0xFE, "INC", .absx, 7, .none, .word .incAbsx⟩,
  ⟨0xC6, "DEC", .zp, 5, .none, .byte .decZp⟩,
  ⟨0xD6, "DEC", .zpx, 6, .none, .byte .decZpx⟩,
  ⟨0xCE, "DEC", .abs, 6, .none, .word .decAbs⟩,
  ⟨0xDE, "DEC", .absx, 7, .none, .word .decAbsx⟩,
  ⟨0xE8, "INX", .imp, 2, .none, .none .inx⟩,
  ⟨0xC8, "INY", .imp, 2, .none, .none .iny⟩,
  ⟨0xCA, "DEX", .imp, 2, .none, .none .dex⟩,
  ⟨0x88, "DEY", .imp, 2, .none, .none .dey⟩]

/-- Jumps, subroutines, branches, BRK, RTI (44_control_flow.md): the rows of opcode_table.json. -/
def opcodeRowsControl : List Row := [
  ⟨0x4C, "JMP", .abs, 3, .none, .word .jmpAbs⟩,
  ⟨0x6C, "JMP", .ind, 5, .none, .word .jmpInd⟩,
  ⟨0x20, "JSR", .abs, 6, .none, .word .jsr⟩,
  ⟨0x60, "RTS", .imp, 6, .none, .none .rts⟩,
  ⟨0x90, "BCC", .rel, 2, .branch, .byte .bcc⟩,
  ⟨0xB0, "BCS", .rel, 2, .branch, .byte .bcs⟩,
  ⟨0xF0, "BEQ", .rel, 2, .branch, .byte .beq⟩,
  ⟨0xD0, "BNE", .rel, 2, .branch, .byte .bne⟩,
  ⟨0x30, "BMI", .rel, 2, .branch, .byte .bmi⟩,
  ⟨0x10, "BPL", .rel, 2, .branch, .byte .bpl⟩,
  ⟨0x50, "BVC", .rel, 2, .branch, .byte .bvc⟩,
  ⟨0x70, "BVS", .rel, 2, .branch, .byte .bvs⟩,
  ⟨0x00, "BRK", .imp, 7, .none, .none .brk⟩,
  ⟨0x40, "RTI", .imp, 6, .none, .none .rti⟩]

/-- Stack, flag and no-operation instructions (45_stack_flags_nop.md): the rows of opcode_table.json. -/
def opcodeRowsStack : List Row := [
  ⟨0x48, "PHA", .imp, 3, .none, .none .pha⟩,
  ⟨0x08, "PHP", .imp, 3, .none, .none .php⟩,
  ⟨0x68, "PLA", .imp, 4, .none, .none .pla⟩,
  ⟨0x28, "PLP", .imp, 4, .none, .none .plp⟩,
  ⟨0x18, "CLC", .imp, 2, .none, .none .clc⟩,
  ⟨0x38, "SEC", .imp, 2, .none, .none .sec⟩,
  ⟨0x58, "CLI", .imp, 2, .none, .none .cli⟩,
  ⟨0x78, "SEI", .imp, 2, .none, .none .sei⟩,
  ⟨0xD8, "CLD", .imp, 2, .none, .none .cld⟩,
  ⟨0xF8, "SED", .imp, 2, .none, .none .sed⟩,
  ⟨0xB8, "CLV", .imp, 2, .none, .none .clv⟩,
  ⟨0xEA, "NOP", .imp, 2, .none, .none .nop⟩]

/-- The 151 defined rows (30_encoding.md R95). -/
def opcodeTable : List Row :=
  opcodeRowsLoadStore ++ opcodeRowsArith ++ opcodeRowsShift ++ opcodeRowsControl ++ opcodeRowsStack

/-- The row of an opcode (40_step_and_addressing.md R125): the opcode byte alone decides (30_encoding.md R99). -/
def opcodeRow (opcode : Byte) : Option Row := opcodeTable.find? (fun r => r.opcode == opcode)

/-- `len(opcode)` (30_encoding.md R92). -/
def instrLength (opcode : Byte) : Nat :=
  match opcodeRow opcode with
  | some r => r.format.length
  | none => Format.undef.length

/-- The instruction of an opcode and the two bytes after it; a byte the format does not have takes no part. Operands are
assembled as 30_encoding.md R93 says: `abs16` is `{byte 2, byte 1}`. An opcode with no row is `jam` (R97). -/
def decodeBytes (opcode byte1 byte2 : Byte) : Instr :=
  match opcodeRow opcode with
  | none => .jam opcode
  | some r =>
    match r.build with
    | .none i => i
    | .byte f => f byte1
    | .word f => f (Machine.word byte2 byte1)

/-- Why a list of bytes is no instruction. -/
inductive DecodeError where
  /-- There is no byte. -/
  | noBytes
  /-- The list ends before the instruction's last operand byte (30_encoding.md R90). -/
  | truncated
  deriving DecidableEq, Repr

/-- The decoder: the first instruction of a list of bytes, and the bytes after it. -/
def decode (bytes : List Byte) : Except DecodeError (Instr × List Byte) :=
  match bytes with
  | [] => .error .noBytes
  | opcode :: rest =>
    if rest.length + 1 < instrLength opcode then .error .truncated
    else .ok (decodeBytes opcode (rest.getD 0 0) (rest.getD 1 0), rest.drop (instrLength opcode - 1))

/-- The bytes of an instruction (30_encoding.md R91, R93, R95). -/
def encode : Instr → List Byte
  | .ldaImm imm8 => [0xA9, imm8]
  | .ldaZp zp8 => [0xA5, zp8]
  | .ldaZpx zp8 => [0xB5, zp8]
  | .ldaAbs abs16 => [0xAD, Machine.loByte abs16, Machine.hiByte abs16]
  | .ldaAbsx abs16 => [0xBD, Machine.loByte abs16, Machine.hiByte abs16]
  | .ldaAbsy abs16 => [0xB9, Machine.loByte abs16, Machine.hiByte abs16]
  | .ldaIndx zp8 => [0xA1, zp8]
  | .ldaIndy zp8 => [0xB1, zp8]
  | .ldxImm imm8 => [0xA2, imm8]
  | .ldxZp zp8 => [0xA6, zp8]
  | .ldxZpy zp8 => [0xB6, zp8]
  | .ldxAbs abs16 => [0xAE, Machine.loByte abs16, Machine.hiByte abs16]
  | .ldxAbsy abs16 => [0xBE, Machine.loByte abs16, Machine.hiByte abs16]
  | .ldyImm imm8 => [0xA0, imm8]
  | .ldyZp zp8 => [0xA4, zp8]
  | .ldyZpx zp8 => [0xB4, zp8]
  | .ldyAbs abs16 => [0xAC, Machine.loByte abs16, Machine.hiByte abs16]
  | .ldyAbsx abs16 => [0xBC, Machine.loByte abs16, Machine.hiByte abs16]
  | .staZp zp8 => [0x85, zp8]
  | .staZpx zp8 => [0x95, zp8]
  | .staAbs abs16 => [0x8D, Machine.loByte abs16, Machine.hiByte abs16]
  | .staAbsx abs16 => [0x9D, Machine.loByte abs16, Machine.hiByte abs16]
  | .staAbsy abs16 => [0x99, Machine.loByte abs16, Machine.hiByte abs16]
  | .staIndx zp8 => [0x81, zp8]
  | .staIndy zp8 => [0x91, zp8]
  | .stxZp zp8 => [0x86, zp8]
  | .stxZpy zp8 => [0x96, zp8]
  | .stxAbs abs16 => [0x8E, Machine.loByte abs16, Machine.hiByte abs16]
  | .styZp zp8 => [0x84, zp8]
  | .styZpx zp8 => [0x94, zp8]
  | .styAbs abs16 => [0x8C, Machine.loByte abs16, Machine.hiByte abs16]
  | .tax => [0xAA]
  | .tay => [0xA8]
  | .txa => [0x8A]
  | .tya => [0x98]
  | .tsx => [0xBA]
  | .txs => [0x9A]
  | .adcImm imm8 => [0x69, imm8]
  | .adcZp zp8 => [0x65, zp8]
  | .adcZpx zp8 => [0x75, zp8]
  | .adcAbs abs16 => [0x6D, Machine.loByte abs16, Machine.hiByte abs16]
  | .adcAbsx abs16 => [0x7D, Machine.loByte abs16, Machine.hiByte abs16]
  | .adcAbsy abs16 => [0x79, Machine.loByte abs16, Machine.hiByte abs16]
  | .adcIndx zp8 => [0x61, zp8]
  | .adcIndy zp8 => [0x71, zp8]
  | .sbcImm imm8 => [0xE9, imm8]
  | .sbcZp zp8 => [0xE5, zp8]
  | .sbcZpx zp8 => [0xF5, zp8]
  | .sbcAbs abs16 => [0xED, Machine.loByte abs16, Machine.hiByte abs16]
  | .sbcAbsx abs16 => [0xFD, Machine.loByte abs16, Machine.hiByte abs16]
  | .sbcAbsy abs16 => [0xF9, Machine.loByte abs16, Machine.hiByte abs16]
  | .sbcIndx zp8 => [0xE1, zp8]
  | .sbcIndy zp8 => [0xF1, zp8]
  | .andImm imm8 => [0x29, imm8]
  | .andZp zp8 => [0x25, zp8]
  | .andZpx zp8 => [0x35, zp8]
  | .andAbs abs16 => [0x2D, Machine.loByte abs16, Machine.hiByte abs16]
  | .andAbsx abs16 => [0x3D, Machine.loByte abs16, Machine.hiByte abs16]
  | .andAbsy abs16 => [0x39, Machine.loByte abs16, Machine.hiByte abs16]
  | .andIndx zp8 => [0x21, zp8]
  | .andIndy zp8 => [0x31, zp8]
  | .oraImm imm8 => [0x09, imm8]
  | .oraZp zp8 => [0x05, zp8]
  | .oraZpx zp8 => [0x15, zp8]
  | .oraAbs abs16 => [0x0D, Machine.loByte abs16, Machine.hiByte abs16]
  | .oraAbsx abs16 => [0x1D, Machine.loByte abs16, Machine.hiByte abs16]
  | .oraAbsy abs16 => [0x19, Machine.loByte abs16, Machine.hiByte abs16]
  | .oraIndx zp8 => [0x01, zp8]
  | .oraIndy zp8 => [0x11, zp8]
  | .eorImm imm8 => [0x49, imm8]
  | .eorZp zp8 => [0x45, zp8]
  | .eorZpx zp8 => [0x55, zp8]
  | .eorAbs abs16 => [0x4D, Machine.loByte abs16, Machine.hiByte abs16]
  | .eorAbsx abs16 => [0x5D, Machine.loByte abs16, Machine.hiByte abs16]
  | .eorAbsy abs16 => [0x59, Machine.loByte abs16, Machine.hiByte abs16]
  | .eorIndx zp8 => [0x41, zp8]
  | .eorIndy zp8 => [0x51, zp8]
  | .cmpImm imm8 => [0xC9, imm8]
  | .cmpZp zp8 => [0xC5, zp8]
  | .cmpZpx zp8 => [0xD5, zp8]
  | .cmpAbs abs16 => [0xCD, Machine.loByte abs16, Machine.hiByte abs16]
  | .cmpAbsx abs16 => [0xDD, Machine.loByte abs16, Machine.hiByte abs16]
  | .cmpAbsy abs16 => [0xD9, Machine.loByte abs16, Machine.hiByte abs16]
  | .cmpIndx zp8 => [0xC1, zp8]
  | .cmpIndy zp8 => [0xD1, zp8]
  | .cpxImm imm8 => [0xE0, imm8]
  | .cpxZp zp8 => [0xE4, zp8]
  | .cpxAbs abs16 => [0xEC, Machine.loByte abs16, Machine.hiByte abs16]
  | .cpyImm imm8 => [0xC0, imm8]
  | .cpyZp zp8 => [0xC4, zp8]
  | .cpyAbs abs16 => [0xCC, Machine.loByte abs16, Machine.hiByte abs16]
  | .bitZp zp8 => [0x24, zp8]
  | .bitAbs abs16 => [0x2C, Machine.loByte abs16, Machine.hiByte abs16]
  | .aslAcc => [0x0A]
  | .aslZp zp8 => [0x06, zp8]
  | .aslZpx zp8 => [0x16, zp8]
  | .aslAbs abs16 => [0x0E, Machine.loByte abs16, Machine.hiByte abs16]
  | .aslAbsx abs16 => [0x1E, Machine.loByte abs16, Machine.hiByte abs16]
  | .lsrAcc => [0x4A]
  | .lsrZp zp8 => [0x46, zp8]
  | .lsrZpx zp8 => [0x56, zp8]
  | .lsrAbs abs16 => [0x4E, Machine.loByte abs16, Machine.hiByte abs16]
  | .lsrAbsx abs16 => [0x5E, Machine.loByte abs16, Machine.hiByte abs16]
  | .rolAcc => [0x2A]
  | .rolZp zp8 => [0x26, zp8]
  | .rolZpx zp8 => [0x36, zp8]
  | .rolAbs abs16 => [0x2E, Machine.loByte abs16, Machine.hiByte abs16]
  | .rolAbsx abs16 => [0x3E, Machine.loByte abs16, Machine.hiByte abs16]
  | .rorAcc => [0x6A]
  | .rorZp zp8 => [0x66, zp8]
  | .rorZpx zp8 => [0x76, zp8]
  | .rorAbs abs16 => [0x6E, Machine.loByte abs16, Machine.hiByte abs16]
  | .rorAbsx abs16 => [0x7E, Machine.loByte abs16, Machine.hiByte abs16]
  | .incZp zp8 => [0xE6, zp8]
  | .incZpx zp8 => [0xF6, zp8]
  | .incAbs abs16 => [0xEE, Machine.loByte abs16, Machine.hiByte abs16]
  | .incAbsx abs16 => [0xFE, Machine.loByte abs16, Machine.hiByte abs16]
  | .decZp zp8 => [0xC6, zp8]
  | .decZpx zp8 => [0xD6, zp8]
  | .decAbs abs16 => [0xCE, Machine.loByte abs16, Machine.hiByte abs16]
  | .decAbsx abs16 => [0xDE, Machine.loByte abs16, Machine.hiByte abs16]
  | .inx => [0xE8]
  | .iny => [0xC8]
  | .dex => [0xCA]
  | .dey => [0x88]
  | .jmpAbs abs16 => [0x4C, Machine.loByte abs16, Machine.hiByte abs16]
  | .jmpInd abs16 => [0x6C, Machine.loByte abs16, Machine.hiByte abs16]
  | .jsr abs16 => [0x20, Machine.loByte abs16, Machine.hiByte abs16]
  | .rts => [0x60]
  | .bcc rel8 => [0x90, rel8]
  | .bcs rel8 => [0xB0, rel8]
  | .beq rel8 => [0xF0, rel8]
  | .bne rel8 => [0xD0, rel8]
  | .bmi rel8 => [0x30, rel8]
  | .bpl rel8 => [0x10, rel8]
  | .bvc rel8 => [0x50, rel8]
  | .bvs rel8 => [0x70, rel8]
  | .brk => [0x00]
  | .rti => [0x40]
  | .pha => [0x48]
  | .php => [0x08]
  | .pla => [0x68]
  | .plp => [0x28]
  | .clc => [0x18]
  | .sec => [0x38]
  | .cli => [0x58]
  | .sei => [0x78]
  | .cld => [0xD8]
  | .sed => [0xF8]
  | .clv => [0xB8]
  | .nop => [0xEA]
  | .jam opcode => [opcode]

/-- The instruction of a row's word as opcode_table.json numbers its bits: bit 0 is the least significant bit of the
first byte, the second byte is bits 15..8, the third bits 23..16; every bit above `nbits` is 0. -/
def decodeTableWord (nbits w : Nat) : Option Instr :=
  let v := w % 2 ^ nbits
  match decode [BitVec.ofNat 8 v, BitVec.ofNat 8 (v / 256), BitVec.ofNat 8 (v / 65536)] with
  | .ok (i, _) => some i
  | .error _ => none

/-- The byte the assembler writes for a branch at `address` to `target`, where it is in reach (30_encoding.md R100).
DESIGN CHOICE, safe: the difference of R100's reach test is taken modulo 65,536, so that a branch across `0xFFFF`/`0x0000`
is in reach; the spec does not say whether it is (log 25). -/
def branchOffset (address target : Word) : Option Byte :=
  let d := (target - (address + 2)).toInt
  if -128 ≤ d ∧ d ≤ 127 then some (BitVec.ofInt 8 d) else none

/-- `n` hexadecimal digits of a number, capital letters (30_encoding.md R100). -/
def hexDigits : Nat → Nat → String
  | 0, _ => ""
  | n + 1, v => hexDigits n (v / 16) ++ String.ofList [(("0123456789ABCDEF".toList)[v % 16]?).getD '0']

/-- The operand of a format in the conventional syntax (30_encoding.md R100); for `REL` the target is written. -/
def renderOperand (address : Word) (byte1 byte2 : Byte) : Format → String
  | .imp | .undef => ""
  | .acc => " A"
  | .imm => " #$" ++ hexDigits 2 byte1.toNat
  | .zp => " $" ++ hexDigits 2 byte1.toNat
  | .zpx => " $" ++ hexDigits 2 byte1.toNat ++ ",X"
  | .zpy => " $" ++ hexDigits 2 byte1.toNat ++ ",Y"
  | .abs => " $" ++ hexDigits 4 (Machine.word byte2 byte1).toNat
  | .absx => " $" ++ hexDigits 4 (Machine.word byte2 byte1).toNat ++ ",X"
  | .absy => " $" ++ hexDigits 4 (Machine.word byte2 byte1).toNat ++ ",Y"
  | .ind => " ($" ++ hexDigits 4 (Machine.word byte2 byte1).toNat ++ ")"
  | .indx => " ($" ++ hexDigits 2 byte1.toNat ++ ",X)"
  | .indy => " ($" ++ hexDigits 2 byte1.toNat ++ "),Y"
  | .rel => " $" ++ hexDigits 4 (address + 2 + Machine.sext16 byte1).toNat

/-- The assembly text of the instruction at `address` with these bytes; none for an undefined opcode, which has no
assembler mnemonic (46_undefined_opcodes.md R270). -/
def render (address : Word) (opcode byte1 byte2 : Byte) : Option String :=
  (opcodeRow opcode).map fun r => r.mnemonic ++ renderOperand address byte1 byte2 r.format

end Sys2Proof
end

