-- ==== Sys2Proof/Config.lean ====
section
/-! DEFINITION. What is fixed for a run and is no state: the parameters of 00_scope.md R5 that are not written into the
types, and the one free value: what a device on the bus answers, which the spec leaves to the parameter `Bus`
(20_memory.md R61, 93_implementation_defined.md U3). -/

namespace Sys2Proof

/-- The one processor variant of the block (00_scope.md R5 `VARIANT`, decision D3). -/
inductive Config.Variant where
  /-- NMOS 6502-family core, 6510 as in the Commodore 64. -/
  | nmos6510
  deriving DecidableEq, Repr

/-- `VARIANT` (00_scope.md R5). -/
def Config.variant : Config.Variant := .nmos6510

/-- What a byte of the reference bus holds that nothing has written. The spec makes the initial contents of the bus a
parameter (93_implementation_defined.md U3). DESIGN CHOICE, unsafe: log 2. -/
def Config.powerOnByte : Byte := 0x00

/-- What a device on the bus can have met: an access of the engine, or a change made by the environment between two
steps, numbered as the environment likes (20_memory.md R61). -/
inductive BusEvent where
  | read (address : Word)
  | write (address : Word) (value : Byte)
  | environment (change : Nat)
  deriving DecidableEq, Repr

/-- The byte a device answers at an address after the events it has met, oldest first: a free value, so that whatever is
proved holds for every `Bus`, side effects of reads and unreadable registers included (20_memory.md R61; log 1). -/
opaque Config.deviceAnswer : List BusEvent → Word → Byte

/-- The options `configure` accepts: none (70_reset_and_hazards.md R354). -/
def Config.acceptedOptions : List String := []

end Sys2Proof
end

