-- ==== Sys2Proof/Machine/Table.lean ====
section
/-! DEFINITION. Finite maps as lists of records in one canonical form: keys strictly rising, so that equal maps are equal
lists. Memory, BP_TABLE and WP_TABLE are such lists (log 14). -/

namespace Sys2Proof.Machine

/-- Every key once, in rising order. -/
abbrev Keyed {α : Type} (key : α → Nat) (l : List α) : Prop := l.Pairwise fun x y => key x < key y

/-- The record with this key. -/
def findKey {α : Type} (key : α → Nat) (k : Nat) (l : List α) : Option α := l.find? fun x => key x == k

/-- The list without the records of this key. -/
def removeKey {α : Type} (key : α → Nat) (k : Nat) (l : List α) : List α := l.filter fun x => key x != k

/-- A record put before the first greater key. -/
def insertKey {α : Type} (key : α → Nat) (x : α) : List α → List α
  | [] => [x]
  | y :: l => if key x < key y then x :: y :: l else y :: insertKey key x l

/-- A record put in the place of any record with its key. -/
def putKey {α : Type} (key : α → Nat) (x : α) (l : List α) : List α := insertKey key x (removeKey key (key x) l)

end Sys2Proof.Machine
end

