-- ==== Sys2Proof/Machine/Memory.lean ====
section
/-! DEFINITION. The bytes of RAM and ROM on the bus (20_memory.md R62): 65,536 of them, held as the list of those that
differ from what nothing has written (log 2). -/

namespace Sys2Proof.Machine

/-- The bytes behind the bus: (address, byte) pairs. -/
abbrev Memory := List Host.Cell

/-- What an address reads as that the list does not hold (log 2). -/
def Memory.unlisted : Byte := Config.powerOnByte

/-- The canonical form: addresses strictly rising and inside the address space (20_memory.md R60), no byte equal to what
an unlisted address reads as. -/
abbrev Memory.wf (m : Memory) : Prop :=
  Keyed Prod.fst m ∧ ∀ c ∈ m, c.1 < 65536 ∧ c.2 ≠ Memory.unlisted

/-- `mem[a]` (20_memory.md R62). -/
def Memory.read (m : Memory) (a : Word) : Byte :=
  match findKey Prod.fst a.toNat m with
  | some c => c.2
  | none => Memory.unlisted

/-- `bus with mem[a] = v` (20_memory.md R62). -/
def Memory.write (m : Memory) (a : Word) (v : Byte) : Memory :=
  if v = Memory.unlisted then removeKey Prod.fst a.toNat m else putKey Prod.fst (a.toNat, v) m

end Sys2Proof.Machine
end

