-- ==== Sys2Proof/Machine/Bus.lean ====
section
/-! DEFINITION. The bus, a parameter of the model (20_memory.md R61; log 1): a map of the address space onto RAM, ROM and
devices, the bytes of RAM and ROM, and what the devices have met. A device's answers are the free value
`Config.deviceAnswer`, so a map that gives every address to devices is an arbitrary `Bus`; the empty map is the reference
bus (R62). -/

namespace Sys2Proof.Machine

/-- What stands behind an address (20_memory.md R60, R61). -/
inductive BusTarget where
  /-- Reads answer the byte last written. -/
  | ram
  /-- Reads answer a byte that the engine's writes do not change. -/
  | rom
  /-- A peripheral register: any answer, and reads and writes may have side effects. -/
  | device
  deriving DecidableEq, Repr

/-- A part of the map: the addresses from `first` to `last`. -/
structure BusRegion where
  first : Word
  last : Word
  target : BusTarget
  deriving DecidableEq, Repr

/-- The state `bus` of the parameter `Bus` (20_memory.md R61). -/
structure Bus where
  /-- The bytes of RAM and ROM. -/
  mem : Memory
  /-- The map; the first region that holds an address decides, RAM where none does. -/
  regions : List BusRegion
  /-- What the devices have met, oldest first. -/
  events : List BusEvent
  deriving DecidableEq, Repr

/-- The reference bus with nothing written: RAM everywhere (20_memory.md R62). -/
def Bus.reference : Bus := ⟨[], [], []⟩

/-- The one handler of an address: "every address resolves to exactly one active handler at any instant" (20_memory.md
R60). -/
def Bus.target (b : Bus) (a : Word) : BusTarget :=
  match b.regions.find? fun r => decide (r.first ≤ a ∧ a ≤ r.last) with
  | some r => r.target
  | none => .ram

/-- `BusRead(bus, a) = (v, bus')` (20_memory.md R61): RAM and ROM answer their byte; a device answers a free value and
has met one read more. -/
def busRead (b : Bus) (a : Word) : Byte × Bus :=
  match b.target a with
  | .ram | .rom => (b.mem.read a, b)
  | .device => (Config.deviceAnswer b.events a, { b with events := b.events ++ [.read a] })

/-- `BusWrite(bus, a, v) = bus'` (20_memory.md R61): RAM takes the byte, ROM ignores it, a device has met one write
more. -/
def busWrite (b : Bus) (a : Word) (v : Byte) : Bus :=
  match b.target a with
  | .ram => { b with mem := b.mem.write a v }
  | .rom => b
  | .device => { b with events := b.events ++ [.write a v] }

/-- `Peek(a)`: the byte a `BusRead` would return; the bus is unchanged, no cycle, no watchpoint (20_memory.md R66). -/
def peek (b : Bus) (a : Word) : Byte := (busRead b a).1

/-- RAM at one address, whatever the map was. -/
def Bus.mapRam (b : Bus) (a : Word) : Bus := { b with regions := ⟨a, a, .ram⟩ :: b.regions }

/-- These bytes placed from an address upward as a program is loaded; where the bus has a map, RAM is put there
(log 12). -/
def Bus.place (b : Bus) (a : Word) (bytes : List Byte) : Bus :=
  match bytes with
  | [] => b
  | v :: rest =>
    let b := if b.regions = [] then b else b.mapRam a
    { b with mem := b.mem.write a v }.place (a + 1) rest

end Sys2Proof.Machine
end

