-- ==== Sys2Proof/Machine/State.lean ====
section
/-! DEFINITION. The state: the tuple of 10_state.md R20, the bus, the inputs and the outputs of a step, as plain data. -/

namespace Sys2Proof.Machine

/-- The status register `P`: seven one-bit flags; bit 5 is no state (10_state.md R26). -/
structure Flags where
  /-- `P.N`, bit 7, negative. -/
  n : Bool
  /-- `P.V`, bit 6, overflow. -/
  v : Bool
  /-- `P.B`, break: written by reset only (10_state.md R27). -/
  b : Bool
  /-- `P.D`, bit 3, decimal. -/
  d : Bool
  /-- `P.I`, bit 2, interrupt-disable. -/
  i : Bool
  /-- `P.Z`, bit 1, zero. -/
  z : Bool
  /-- `P.C`, bit 0, carry. -/
  c : Bool
  deriving DecidableEq, Repr

/-- ProcessorState (10_state.md R20; 00_scope.md R8). -/
structure ProcessorState where
  /-- `A` (R21). -/
  a : Byte
  /-- `X` (R22). -/
  x : Byte
  /-- `Y` (R22). -/
  y : Byte
  /-- `S`, the stack pointer (R23). -/
  sp : Byte
  /-- `PC` (R25). -/
  pc : Word
  /-- `P` (R26). -/
  p : Flags
  /-- `jammed` (R32). -/
  jammed : Bool
  deriving DecidableEq, Repr

/-- The kind of a breakpoint: removed by its hit, or kept until cleared (49_debugger.md R280). -/
inductive BreakKind where
  | soft | hard
  deriving DecidableEq, Repr

/-- A record of BP_TABLE (49_debugger.md R280, R282). -/
structure Breakpoint where
  address : Word
  kind : BreakKind
  enabled : Bool
  deriving DecidableEq, Repr

/-- The access-kind of a watchpoint (49_debugger.md R281). -/
inductive WatchAccess where
  | read | write | any
  deriving DecidableEq, Repr

/-- A record of WP_TABLE (49_debugger.md R281, R282). -/
structure Watchpoint where
  address : Word
  access : WatchAccess
  enabled : Bool
  deriving DecidableEq, Repr

/-- The kind of a bus access (20_memory.md R65, R67). -/
inductive AccessKind where
  | read | write
  deriving DecidableEq, Repr

/-- One entry of the access trace: kind, address, value (20_memory.md R67). -/
structure Access where
  kind : AccessKind
  address : Word
  value : Byte
  deriving DecidableEq, Repr

/-- The kind of an ExecutionTrap (10_state.md R42). -/
inductive TrapKind where
  | breakpoint | watchpoint
  deriving DecidableEq, Repr

/-- ExecutionTrap (10_state.md R42). -/
structure ExecutionTrap where
  address : Word
  kind : TrapKind
  state : ProcessorState
  deriving DecidableEq, Repr

/-- StepOutcome (10_state.md R42, 40_step_and_addressing.md R124). -/
inductive StepOutcome where
  | ok
  | trapped (t : ExecutionTrap)
  | jammed
  deriving DecidableEq, Repr

/-- The whole machine. -/
structure State where
  /-- ProcessorState (10_state.md R20). -/
  cpu : ProcessorState
  /-- `cycles`, an unbounded natural number (10_state.md R33). -/
  cycles : Nat
  /-- `nmi_prev`: the level of `nmi_line` at the last sample (10_state.md R34). -/
  nmiPrev : Bool
  /-- `nmi_pending` (10_state.md R34). -/
  nmiPending : Bool
  /-- `bp_skip` (10_state.md R35). -/
  bpSkip : Option Word
  /-- BP_TABLE (49_debugger.md R280), by rising address. -/
  bps : List Breakpoint
  /-- WP_TABLE (49_debugger.md R281), by rising address and access-kind. -/
  wps : List Watchpoint
  /-- `bus`, the state of the parameter `Bus` (20_memory.md R61, R62; log 1). -/
  bus : Bus
  /-- `irq_line`, the level the environment drives (10_state.md R41; log 3). -/
  irqLine : Bool
  /-- `nmi_line`, the level the environment drives (10_state.md R41; log 3). -/
  nmiLine : Bool
  /-- `watch_hit`: the address of the first matching access; its kind is Watchpoint and its state is filled in at the
  step's end (10_state.md R36, 20_memory.md R65; log 9). -/
  watchHit : Option Word
  /-- The outcome of the last step, if there was one since reset (10_state.md R42; log 8). -/
  outcome : Option StepOutcome
  /-- The accesses of the last step, in bus order (20_memory.md R67; log 8). -/
  trace : List Access
  /-- The observer's record of the addresses at which `singleStep()` armed the breakpoint that stands there, by rising
  address (49_debugger.md R292; log 24). -/
  stepArmed : List Word
  deriving DecidableEq, Repr

/-- The snapshot tuple (10_state.md R20, 70_reset_and_hazards.md R353). -/
structure Snapshot where
  cpu : ProcessorState
  cycles : Nat
  nmiPrev : Bool
  nmiPending : Bool
  bpSkip : Option Word
  bps : List Breakpoint
  wps : List Watchpoint
  deriving DecidableEq, Repr

/-- Faults: none. "There is no fault for an illegal address, a misaligned access, an arithmetic overflow, a stack
overflow, or a privilege violation, because none of these can occur" (60_exceptions.md R310); the jam is a state of the
machine (R325, R326), not a fault. Safe: nothing stops here that the spec lets go on (log 7). -/
inductive Fault
  deriving DecidableEq, Repr

/-- Refusals. -/
inductive Refusal where
  /-- Raised by `exec` for an instruction with no meaning; no arm raises it now. Safe: the run stops. -/
  | notModelled (mnemonic : String)
  /-- Raised by `hostCall` for `loadSnapshot` of a tuple that breaks the invariants of 10_state.md R39, which "is outside
  the specification" (70_reset_and_hazards.md R353, 93_implementation_defined.md U6); never by `step`. Safe: the run
  stops (log 15). -/
  | invalidSnapshot
  deriving DecidableEq, Repr

/-- What a step or a meaning answers. -/
abbrev Result := Host.Outcome State Fault Refusal

/-- The machine after `reset()` from power-on (10_state.md R40, 70_reset_and_hazards.md R350, R352): both tables empty,
the reference bus with nothing written (20_memory.md R62; log 2), the lines released, and `PC` the value of that bus's
reset vector. -/
def State.reset : State where
  cpu := {
    a := 0x00, x := 0x00, y := 0x00, sp := 0xFD
    pc := word (busRead Bus.reference 0xFFFD).1 (busRead Bus.reference 0xFFFC).1
    p := { n := false, v := false, b := true, d := false, i := true, z := false, c := false }
    jammed := false }
  cycles := 0
  nmiPrev := false
  nmiPending := false
  bpSkip := none
  bps := []
  wps := []
  bus := Bus.reference
  irqLine := false
  nmiLine := false
  watchHit := none
  outcome := none
  trace := []
  stepArmed := []

end Sys2Proof.Machine
end

