-- ==== Sys2Proof/Machine/Debugger.lean ====
section
/-! DEFINITION. The Debugger's tables and lookups (49_debugger.md R280 to R290). -/

namespace Sys2Proof.Machine

/-- BP_TABLE holds at most one record an address (49_debugger.md R280, 10_state.md R39). -/
def breakKey (b : Breakpoint) : Nat := b.address.toNat

/-- The place of an access-kind among an address's watchpoints. -/
def WatchAccess.rank : WatchAccess → Nat
  | .read => 0
  | .write => 1
  | .any => 2

/-- WP_TABLE holds at most one record an (address, access) pair (49_debugger.md R281, 10_state.md R39). -/
def watchKey (w : Watchpoint) : Nat := w.address.toNat * 4 + w.access.rank

/-- BP_TABLE[addr]. -/
def breakpointAt (t : List Breakpoint) (a : Word) : Option Breakpoint := findKey breakKey a.toNat t

/-- WP_TABLE's record of an (address, access) pair. -/
def watchpointAt (t : List Watchpoint) (a : Word) (k : WatchAccess) : Option Watchpoint :=
  findKey watchKey (a.toNat * 4 + k.rank) t

/-- `BP_TABLE[addr] <- {kind, enabled}` (49_debugger.md R287). -/
def putBreakpoint (b : Breakpoint) (t : List Breakpoint) : List Breakpoint := putKey breakKey b t

/-- Remove `addr` from BP_TABLE (49_debugger.md R288). -/
def removeBreakpoint (a : Word) (t : List Breakpoint) : List Breakpoint := removeKey breakKey a.toNat t

/-- Insert into WP_TABLE, replacing the record of the same pair (49_debugger.md R289). -/
def putWatchpoint (w : Watchpoint) (t : List Watchpoint) : List Watchpoint := putKey watchKey w t

/-- Remove the record of exactly that pair from WP_TABLE (49_debugger.md R290). -/
def removeWatchpoint (a : Word) (k : WatchAccess) (t : List Watchpoint) : List Watchpoint :=
  removeKey watchKey (a.toNat * 4 + k.rank) t

/-- `checkFetch(addr)`: the enabled record at the address, and the table, from which a matched soft record is gone
(49_debugger.md R285). -/
def checkFetch (t : List Breakpoint) (a : Word) : Option Breakpoint × List Breakpoint :=
  match breakpointAt t a with
  | none => (none, t)
  | some b =>
    if b.enabled then
      match b.kind with
      | .hard => (some b, t)
      | .soft => (some b, removeBreakpoint a t)
    else (none, t)

/-- The watchpoint access-kind that equals an access's kind. -/
def AccessKind.exact : AccessKind → WatchAccess
  | .read => .read
  | .write => .write

/-- `checkAccess(addr, k)`: the enabled record of the access's own kind first, then that of `any` (49_debugger.md
R286). -/
def checkAccess (t : List Watchpoint) (a : Word) (k : AccessKind) : Option Watchpoint :=
  match (watchpointAt t a k.exact).filter (·.enabled) with
  | some w => some w
  | none => (watchpointAt t a .any).filter (·.enabled)

end Sys2Proof.Machine
end

