-- ==== Sys2Proof/Machine/Flags.lean ====
section
/-! DEFINITION. The packed status and every flag computation (10_state.md R28 to R30, 42_arithmetic_logic.md,
43_shift_incdec.md). A computation takes the flags before the instruction and gives the flags after it. -/

namespace Sys2Proof.Machine

/-- `packP(b)` (10_state.md R28). -/
def packP (b : Bool) (p : Flags) : Byte :=
  BitVec.ofNat 8 (p.n.toNat * 128 + p.v.toNat * 64 + 32 + b.toNat * 16 + p.d.toNat * 8 + p.i.toNat * 4 +
    p.z.toNat * 2 + p.c.toNat)

/-- `unpackP(v)`: bits 5 and 4 are ignored and `P.B` keeps its value (10_state.md R29). -/
def unpackP (v : Byte) (p : Flags) : Flags :=
  { p with n := bit v 7, v := bit v 6, d := bit v 3, i := bit v 2, z := bit v 1, c := bit v 0 }

/-- `setZN(v)` (10_state.md R30). -/
def setZN (v : Byte) (p : Flags) : Flags := { p with z := v == 0, n := bit v 7 }

/-- Binary `ADC` (42_arithmetic_logic.md R191): the result and the flags. -/
def adcBinary (a m : Byte) (p : Flags) : Byte × Flags :=
  let s := a.toNat + m.toNat + p.c.toNat
  let r := BitVec.ofNat 8 s
  (r, setZN r { p with v := ((a.toNat ^^^ s) &&& (m.toNat ^^^ s) &&& 0x80) != 0, c := decide (s > 0xFF) })

/-- The digit-corrected low digit of decimal `ADC`, with its carry of 0x10 (42_arithmetic_logic.md R192 `al`). -/
def adcDecimalLow (a m : Byte) (c : Bool) : Nat :=
  let al := (a.toNat &&& 0x0F) + (m.toNat &&& 0x0F) + c.toNat
  if al ≥ 0x0A then ((al + 0x06) &&& 0x0F) + 0x10 else al

/-- Decimal `ADC` (42_arithmetic_logic.md R192): `Z` from the binary sum, `N` and `V` from the intermediate `t`. -/
def adcDecimal (a m : Byte) (p : Flags) : Byte × Flags :=
  let t := (a.toNat &&& 0xF0) + (m.toNat &&& 0xF0) + adcDecimalLow a m p.c
  let u := if t ≥ 0xA0 then t + 0x60 else t
  (BitVec.ofNat 8 u,
    { p with
      z := ((a.toNat + m.toNat + p.c.toNat) &&& 0xFF) == 0
      n := t.testBit 7
      v := ((a.toNat ^^^ t) &&& (m.toNat ^^^ t) &&& 0x80) != 0
      c := decide (u ≥ 0x100) })

/-- `ADC` (42_arithmetic_logic.md R191). -/
def adcResult (a m : Byte) (p : Flags) : Byte × Flags :=
  if p.d then adcDecimal a m p else adcBinary a m p

/-- `A - m - (1 - C)` as an integer (42_arithmetic_logic.md R193 `d`). -/
def sbcDifference (a m : Byte) (c : Bool) : Int := (a.toNat : Int) - m.toNat - (1 - c.toNat)

/-- `SBC_decimal(m)`: the value `A` receives when `P.D = 1` (42_arithmetic_logic.md R194). -/
def sbcDecimal (a m : Byte) (c : Bool) : Byte :=
  let al : Int := ((a.toNat &&& 0x0F : Nat) : Int) - ((m.toNat &&& 0x0F : Nat) : Int) - (1 - c.toNat)
  let al := if al < 0 then (al - 0x06) % 16 - 0x10 else al
  let t := ((a.toNat &&& 0xF0 : Nat) : Int) - ((m.toNat &&& 0xF0 : Nat) : Int) + al
  let t := if t < 0 then t - 0x60 else t
  BitVec.ofInt 8 t

/-- `SBC` (42_arithmetic_logic.md R193): all four flags from the binary difference, in both modes. -/
def sbcResult (a m : Byte) (p : Flags) : Byte × Flags :=
  let d := sbcDifference a m p.c
  let r := BitVec.ofInt 8 d
  (if p.d then sbcDecimal a m p.c else r,
    setZN r { p with v := ((a ^^^ m) &&& (a ^^^ r) &&& 0x80) != 0, c := decide (d ≥ 0) })

/-- `CMP CPX CPY`: the flags of a comparison of a register with `m` (42_arithmetic_logic.md R198). -/
def compareFlags (reg m : Byte) (p : Flags) : Flags :=
  { p with c := decide (reg.toNat ≥ m.toNat), z := reg == m, n := bit (reg - m) 7 }

/-- `BIT` (42_arithmetic_logic.md R201). -/
def bitFlags (a m : Byte) (p : Flags) : Flags :=
  { p with z := (a &&& m) == 0, n := bit m 7, v := bit m 6 }

/-- `ASL` (43_shift_incdec.md R210). -/
def aslResult (v : Byte) (p : Flags) : Byte × Flags :=
  let r := v <<< 1
  (r, setZN r { p with c := bit v 7 })

/-- `LSR` (43_shift_incdec.md R211). -/
def lsrResult (v : Byte) (p : Flags) : Byte × Flags :=
  let r := v >>> 1
  (r, setZN r { p with c := bit v 0 })

/-- `ROL`: the old carry enters bit 0 (43_shift_incdec.md R212). -/
def rolResult (v : Byte) (p : Flags) : Byte × Flags :=
  let r := v <<< 1 ||| (if p.c then 0x01 else 0x00)
  (r, setZN r { p with c := bit v 7 })

/-- `ROR`: the old carry enters bit 7 (43_shift_incdec.md R213). -/
def rorResult (v : Byte) (p : Flags) : Byte × Flags :=
  let r := v >>> 1 ||| (if p.c then 0x80 else 0x00)
  (r, setZN r { p with c := bit v 0 })

/-- `INC` (43_shift_incdec.md R214). -/
def incResult (v : Byte) (p : Flags) : Byte × Flags := (v + 1, setZN (v + 1) p)

/-- `DEC` (43_shift_incdec.md R215). -/
def decResult (v : Byte) (p : Flags) : Byte × Flags := (v - 1, setZN (v - 1) p)

end Sys2Proof.Machine
end

