-- ==== Sys2Proof/Machine/Ops.lean ====
section
/-! DEFINITION. The primitives of 00_scope.md R7 over the state: checked accesses (20_memory.md R63 to R65), the stack
(R68, R69), `fetch` (40_step_and_addressing.md R126), and taking an exception and returning from one (60_exceptions.md
R314, 44_control_flow.md R243, R244). -/

namespace Sys2Proof.Machine

/-- The NMI vector (20_memory.md R73). -/
def nmiVector : Word := 0xFFFA

/-- The reset vector (20_memory.md R73). -/
def resetVector : Word := 0xFFFC

/-- The IRQ and `BRK` vector (20_memory.md R73). -/
def irqVector : Word := 0xFFFE

/-- The state with another ProcessorState: every register and flag write goes through it. -/
def State.mapCpu (f : ProcessorState → ProcessorState) (s : State) : State := { s with cpu := f s.cpu }

/-- `watch(a, k)`: the first matching access of a step is recorded (20_memory.md R65). -/
def State.watch (k : AccessKind) (a : Word) (s : State) : State :=
  match s.watchHit with
  | some _ => s
  | none =>
    match checkAccess s.wps a k with
    | some _ => { s with watchHit := some a }
    | none => s

/-- What every checked access does beside the bus transaction: one cycle, one trace entry, then the watchpoint lookup
(20_memory.md R63, R64, R67). -/
def State.observe (x : Access) (s : State) : State :=
  { s with cycles := s.cycles + 1, trace := s.trace ++ [x] }.watch x.kind x.address

/-- `MemRead(a, 1)` (20_memory.md R63). -/
def memRead (a : Word) (s : State) : Byte × State :=
  let r := busRead s.bus a
  (r.1, { s with bus := r.2 }.observe ⟨.read, a, r.1⟩)

/-- `MemWrite(a, 1, v)` (20_memory.md R64). -/
def memWrite (a : Word) (v : Byte) (s : State) : State :=
  { s with bus := busWrite s.bus a v }.observe ⟨.write, a, v⟩

/-- A checked read whose byte is discarded: a dummy read (00_scope.md R8), or the fetch of an operand byte that the
decoder has already given the instruction (log 5). -/
def touch (a : Word) (s : State) : State := (memRead a s).2

/-- `PC <- PC + 1` modulo 65,536 (40_step_and_addressing.md R126). -/
def incPc (s : State) : State := s.mapCpu fun c => { c with pc := c.pc + 1 }

/-- `fetch()` (40_step_and_addressing.md R126). -/
def fetch (s : State) : Byte × State :=
  let r := memRead s.cpu.pc s
  (r.1, incPc r.2)

/-- `fetch()` of an operand byte whose value the instruction holds (log 5). -/
def fetchOperand (s : State) : State := (fetch s).2

/-- `MemRead(PC, 1)`, the dummy read of a one-byte instruction; `PC` stays (40_step_and_addressing.md R130). -/
def dummyFetch (s : State) : State := touch s.cpu.pc s

/-- `0x0100 + S` (20_memory.md R68). -/
def stackAddress (sp : Byte) : Word := word 0x01 sp

/-- `push(v)` (20_memory.md R68): the address is formed before the decrement. -/
def push (v : Byte) (s : State) : State :=
  (memWrite (stackAddress s.cpu.sp) v s).mapCpu fun c => { c with sp := c.sp - 1 }

/-- `pull()` (20_memory.md R69): the address is formed after the increment. -/
def pull (s : State) : Byte × State :=
  let s := s.mapCpu fun c => { c with sp := c.sp + 1 }
  memRead (stackAddress s.cpu.sp) s

/-- The dummy read of the stack top, `S` unchanged (44_control_flow.md R233, R234; 45_stack_flags_nop.md R252). -/
def dummyStack (s : State) : State := touch (stackAddress s.cpu.sp) s

/-- `pc <- {hi, lo}` from the two bytes at a vector, low byte first (60_exceptions.md R314). -/
def jumpVector (vec : Word) (s : State) : State :=
  let l := memRead vec s
  let h := memRead (vec + 1) l.2
  h.2.mapCpu fun c => { c with pc := word h.1 l.1 }

/-- Taking an exception, shared by `BRK` and the interrupt sequences: push PC high, PC low and the status with bit 4 =
`b`, set `P.I`, load PC from the vector (60_exceptions.md R314, R319; 44_control_flow.md R243). -/
def takeException (b : Bool) (vec : Word) (s : State) : State :=
  let s := push (hiByte s.cpu.pc) s
  let s := push (loByte s.cpu.pc) s
  let s := push (packP b s.cpu.p) s
  jumpVector vec (s.mapCpu fun c => { c with p := { c.p with i := true } })

/-- `InterruptSequence(vec)`: two dummy reads of the interrupted opcode, then the entry with bit 4 clear (60_exceptions.md
R314). -/
def interruptSequence (vec : Word) (s : State) : State :=
  takeException false vec (dummyFetch (dummyFetch s))

/-- Returning from an exception: pull the status, then PC, exact (44_control_flow.md R244, 60_exceptions.md R320). -/
def returnFromException (s : State) : State :=
  let f := pull s
  let s := f.2.mapCpu fun c => { c with p := unpackP f.1 c.p }
  let l := pull s
  let h := pull l.2
  h.2.mapCpu fun c => { c with pc := word h.1 l.1 }

end Sys2Proof.Machine
end

