-- ==== Sys2Proof/Machine/Operands.lean ====
section
/-! DEFINITION. The memory addressing modes and the three operand classes (40_step_and_addressing.md R132 to R146). When
these run, the opcode has been fetched; operand bytes are those of the instruction, and their fetches are performed as
checked accesses (log 5). -/

namespace Sys2Proof.Machine

/-- A memory operand: a format of 30_encoding.md R91 with its operand bytes. -/
inductive Mode where
  | zp (zp8 : Byte)
  | zpx (zp8 : Byte)
  | zpy (zp8 : Byte)
  | abs (abs16 : Word)
  | absx (abs16 : Word)
  | absy (abs16 : Word)
  | indx (zp8 : Byte)
  | indy (zp8 : Byte)
  deriving DecidableEq, Repr

/-- The operand of a read-class instruction: an immediate byte or a memory operand. -/
inductive Source where
  | imm (imm8 : Byte)
  | mem (m : Mode)
  deriving DecidableEq, Repr

/-- What address resolution gives: `ea`; for the indexed absolute and indirect formats `early`, the address with the
index added to the low byte only; and `crossed` (40_step_and_addressing.md R137). -/
structure Resolved where
  ea : Word
  early : Option Word
  crossed : Bool
  deriving DecidableEq, Repr

/-- A base address and an index: `ea`, `early`, `crossed` (40_step_and_addressing.md R137, R140). -/
def indexed (base : Word) (index : Byte) : Resolved where
  ea := base + zext16 index
  early := some (word (hiByte base) (loByte base + index))
  crossed := decide ((loByte base).toNat + index.toNat > 0xFF)

/-- An address with no index: no `early`, no crossing. -/
def direct (a : Word) : Resolved := ⟨a, none, false⟩

/-- The two bytes of a zero-page pointer, the second wrapping inside the zero page (40_step_and_addressing.md R139,
R140). -/
def zeroPagePointer (p : Byte) (s : State) : Word × State :=
  let l := memRead (zext16 p) s
  let h := memRead (zext16 (p + 1)) l.2
  (word h.1 l.1, h.2)

/-- Address resolution with its accesses (40_step_and_addressing.md R133 to R140). -/
def Mode.resolve (m : Mode) (s : State) : Resolved × State :=
  match m with
  | .zp z => (direct (zext16 z), fetchOperand s)
  | .zpx z => (direct (zext16 (z + s.cpu.x)), touch (zext16 z) (fetchOperand s))
  | .zpy z => (direct (zext16 (z + s.cpu.y)), touch (zext16 z) (fetchOperand s))
  | .abs w => (direct w, fetchOperand (fetchOperand s))
  | .absx w => (indexed w s.cpu.x, fetchOperand (fetchOperand s))
  | .absy w => (indexed w s.cpu.y, fetchOperand (fetchOperand s))
  | .indx z =>
    let r := zeroPagePointer (z + s.cpu.x) (touch (zext16 z) (fetchOperand s))
    (direct r.1, r.2)
  | .indy z =>
    let r := zeroPagePointer z (fetchOperand s)
    (indexed r.1 s.cpu.y, r.2)

/-- The dummy read at `early` that the write and read-modify-write classes always make (40_step_and_addressing.md R137,
R145, R146). -/
def touchEarly (r : Resolved) (s : State) : State :=
  match r.early with
  | some e => touch e s
  | none => s

/-- `loadOperand(format)` (40_step_and_addressing.md R144): the dummy read at `early` only if `crossed`. -/
def loadOperand (src : Source) (s : State) : Byte × State :=
  match src with
  | .imm v => (v, fetchOperand s)
  | .mem m =>
    let r := m.resolve s
    memRead r.1.ea (if r.1.crossed then touchEarly r.1 r.2 else r.2)

/-- `storeOperand(format, v)` (40_step_and_addressing.md R146). -/
def storeOperand (m : Mode) (v : Byte) (s : State) : State :=
  let r := m.resolve s
  memWrite r.1.ea v (touchEarly r.1 r.2)

/-- `modifyOperand(format, f)` (40_step_and_addressing.md R145): read, write the old value, apply `f`, write the new
value. -/
def modifyOperand (m : Mode) (f : Byte → Flags → Byte × Flags) (s : State) : State :=
  let r := m.resolve s
  let v := memRead r.1.ea (touchEarly r.1 r.2)
  let s := memWrite r.1.ea v.1 v.2
  let q := f v.1 s.cpu.p
  memWrite r.1.ea q.1 (s.mapCpu fun c => { c with p := q.2 })

/-- A one-byte instruction on registers and flags: the dummy read, then its effect (40_step_and_addressing.md R130). -/
def implied (f : ProcessorState → ProcessorState) (s : State) : State := (dummyFetch s).mapCpu f

/-- The `ACC` form of a shift: `A <- f(A)` after the dummy read (40_step_and_addressing.md R131, R145). -/
def modifyAccumulator (f : Byte → Flags → Byte × Flags) (s : State) : State :=
  (dummyFetch s).mapCpu fun c =>
    let q := f c.a c.p
    { c with a := q.1, p := q.2 }

end Sys2Proof.Machine
end

