-- ==== Sys2Proof/Machine/Arith.lean ====
section
/-! DEFINITION. Arithmetic, logic, compare, bit test (42_arithmetic_logic.md R190 to R201): one shared operation for each mnemonic, one
meaning for each row of the opcode table. -/

namespace Sys2Proof.Machine

/-- `ADC`, binary or decimal as `P.D` says (R191). -/
def opAdc (src : Source) (s : State) : State :=
  let v := loadOperand src s
  v.2.mapCpu fun c => { c with a := (adcResult c.a v.1 c.p).1, p := (adcResult c.a v.1 c.p).2 }

/-- `ADC IMM` (R191). -/
def execAdcImm (imm8 : Byte) (s : State) : Result := .next (opAdc (.imm imm8) s)

/-- `ADC ZP` (R191). -/
def execAdcZp (zp8 : Byte) (s : State) : Result := .next (opAdc (.mem (.zp zp8)) s)

/-- `ADC ZPX` (R191). -/
def execAdcZpx (zp8 : Byte) (s : State) : Result := .next (opAdc (.mem (.zpx zp8)) s)

/-- `ADC ABS` (R191). -/
def execAdcAbs (abs16 : Word) (s : State) : Result := .next (opAdc (.mem (.abs abs16)) s)

/-- `ADC ABSX` (R191). -/
def execAdcAbsx (abs16 : Word) (s : State) : Result := .next (opAdc (.mem (.absx abs16)) s)

/-- `ADC ABSY` (R191). -/
def execAdcAbsy (abs16 : Word) (s : State) : Result := .next (opAdc (.mem (.absy abs16)) s)

/-- `ADC INDX` (R191). -/
def execAdcIndx (zp8 : Byte) (s : State) : Result := .next (opAdc (.mem (.indx zp8)) s)

/-- `ADC INDY` (R191). -/
def execAdcIndy (zp8 : Byte) (s : State) : Result := .next (opAdc (.mem (.indy zp8)) s)

/-- `SBC`, binary or decimal as `P.D` says (R193). -/
def opSbc (src : Source) (s : State) : State :=
  let v := loadOperand src s
  v.2.mapCpu fun c => { c with a := (sbcResult c.a v.1 c.p).1, p := (sbcResult c.a v.1 c.p).2 }

/-- `SBC IMM` (R193). -/
def execSbcImm (imm8 : Byte) (s : State) : Result := .next (opSbc (.imm imm8) s)

/-- `SBC ZP` (R193). -/
def execSbcZp (zp8 : Byte) (s : State) : Result := .next (opSbc (.mem (.zp zp8)) s)

/-- `SBC ZPX` (R193). -/
def execSbcZpx (zp8 : Byte) (s : State) : Result := .next (opSbc (.mem (.zpx zp8)) s)

/-- `SBC ABS` (R193). -/
def execSbcAbs (abs16 : Word) (s : State) : Result := .next (opSbc (.mem (.abs abs16)) s)

/-- `SBC ABSX` (R193). -/
def execSbcAbsx (abs16 : Word) (s : State) : Result := .next (opSbc (.mem (.absx abs16)) s)

/-- `SBC ABSY` (R193). -/
def execSbcAbsy (abs16 : Word) (s : State) : Result := .next (opSbc (.mem (.absy abs16)) s)

/-- `SBC INDX` (R193). -/
def execSbcIndx (zp8 : Byte) (s : State) : Result := .next (opSbc (.mem (.indx zp8)) s)

/-- `SBC INDY` (R193). -/
def execSbcIndy (zp8 : Byte) (s : State) : Result := .next (opSbc (.mem (.indy zp8)) s)

/-- `AND` (R195). -/
def opAnd (src : Source) (s : State) : State :=
  let v := loadOperand src s
  v.2.mapCpu fun c => { c with a := c.a &&& v.1, p := setZN (c.a &&& v.1) c.p }

/-- `AND IMM` (R195). -/
def execAndImm (imm8 : Byte) (s : State) : Result := .next (opAnd (.imm imm8) s)

/-- `AND ZP` (R195). -/
def execAndZp (zp8 : Byte) (s : State) : Result := .next (opAnd (.mem (.zp zp8)) s)

/-- `AND ZPX` (R195). -/
def execAndZpx (zp8 : Byte) (s : State) : Result := .next (opAnd (.mem (.zpx zp8)) s)

/-- `AND ABS` (R195). -/
def execAndAbs (abs16 : Word) (s : State) : Result := .next (opAnd (.mem (.abs abs16)) s)

/-- `AND ABSX` (R195). -/
def execAndAbsx (abs16 : Word) (s : State) : Result := .next (opAnd (.mem (.absx abs16)) s)

/-- `AND ABSY` (R195). -/
def execAndAbsy (abs16 : Word) (s : State) : Result := .next (opAnd (.mem (.absy abs16)) s)

/-- `AND INDX` (R195). -/
def execAndIndx (zp8 : Byte) (s : State) : Result := .next (opAnd (.mem (.indx zp8)) s)

/-- `AND INDY` (R195). -/
def execAndIndy (zp8 : Byte) (s : State) : Result := .next (opAnd (.mem (.indy zp8)) s)

/-- `ORA` (R196). -/
def opOra (src : Source) (s : State) : State :=
  let v := loadOperand src s
  v.2.mapCpu fun c => { c with a := c.a ||| v.1, p := setZN (c.a ||| v.1) c.p }

/-- `ORA IMM` (R196). -/
def execOraImm (imm8 : Byte) (s : State) : Result := .next (opOra (.imm imm8) s)

/-- `ORA ZP` (R196). -/
def execOraZp (zp8 : Byte) (s : State) : Result := .next (opOra (.mem (.zp zp8)) s)

/-- `ORA ZPX` (R196). -/
def execOraZpx (zp8 : Byte) (s : State) : Result := .next (opOra (.mem (.zpx zp8)) s)

/-- `ORA ABS` (R196). -/
def execOraAbs (abs16 : Word) (s : State) : Result := .next (opOra (.mem (.abs abs16)) s)

/-- `ORA ABSX` (R196). -/
def execOraAbsx (abs16 : Word) (s : State) : Result := .next (opOra (.mem (.absx abs16)) s)

/-- `ORA ABSY` (R196). -/
def execOraAbsy (abs16 : Word) (s : State) : Result := .next (opOra (.mem (.absy abs16)) s)

/-- `ORA INDX` (R196). -/
def execOraIndx (zp8 : Byte) (s : State) : Result := .next (opOra (.mem (.indx zp8)) s)

/-- `ORA INDY` (R196). -/
def execOraIndy (zp8 : Byte) (s : State) : Result := .next (opOra (.mem (.indy zp8)) s)

/-- `EOR` (R197). -/
def opEor (src : Source) (s : State) : State :=
  let v := loadOperand src s
  v.2.mapCpu fun c => { c with a := c.a ^^^ v.1, p := setZN (c.a ^^^ v.1) c.p }

/-- `EOR IMM` (R197). -/
def execEorImm (imm8 : Byte) (s : State) : Result := .next (opEor (.imm imm8) s)

/-- `EOR ZP` (R197). -/
def execEorZp (zp8 : Byte) (s : State) : Result := .next (opEor (.mem (.zp zp8)) s)

/-- `EOR ZPX` (R197). -/
def execEorZpx (zp8 : Byte) (s : State) : Result := .next (opEor (.mem (.zpx zp8)) s)

/-- `EOR ABS` (R197). -/
def execEorAbs (abs16 : Word) (s : State) : Result := .next (opEor (.mem (.abs abs16)) s)

/-- `EOR ABSX` (R197). -/
def execEorAbsx (abs16 : Word) (s : State) : Result := .next (opEor (.mem (.absx abs16)) s)

/-- `EOR ABSY` (R197). -/
def execEorAbsy (abs16 : Word) (s : State) : Result := .next (opEor (.mem (.absy abs16)) s)

/-- `EOR INDX` (R197). -/
def execEorIndx (zp8 : Byte) (s : State) : Result := .next (opEor (.mem (.indx zp8)) s)

/-- `EOR INDY` (R197). -/
def execEorIndy (zp8 : Byte) (s : State) : Result := .next (opEor (.mem (.indy zp8)) s)

/-- `CMP`: no register is written (R198). -/
def opCmp (src : Source) (s : State) : State :=
  let v := loadOperand src s
  v.2.mapCpu fun c => { c with p := compareFlags c.a v.1 c.p }

/-- `CMP IMM` (R198). -/
def execCmpImm (imm8 : Byte) (s : State) : Result := .next (opCmp (.imm imm8) s)

/-- `CMP ZP` (R198). -/
def execCmpZp (zp8 : Byte) (s : State) : Result := .next (opCmp (.mem (.zp zp8)) s)

/-- `CMP ZPX` (R198). -/
def execCmpZpx (zp8 : Byte) (s : State) : Result := .next (opCmp (.mem (.zpx zp8)) s)

/-- `CMP ABS` (R198). -/
def execCmpAbs (abs16 : Word) (s : State) : Result := .next (opCmp (.mem (.abs abs16)) s)

/-- `CMP ABSX` (R198). -/
def execCmpAbsx (abs16 : Word) (s : State) : Result := .next (opCmp (.mem (.absx abs16)) s)

/-- `CMP ABSY` (R198). -/
def execCmpAbsy (abs16 : Word) (s : State) : Result := .next (opCmp (.mem (.absy abs16)) s)

/-- `CMP INDX` (R198). -/
def execCmpIndx (zp8 : Byte) (s : State) : Result := .next (opCmp (.mem (.indx zp8)) s)

/-- `CMP INDY` (R198). -/
def execCmpIndy (zp8 : Byte) (s : State) : Result := .next (opCmp (.mem (.indy zp8)) s)

/-- `CPX`: no register is written (R199). -/
def opCpx (src : Source) (s : State) : State :=
  let v := loadOperand src s
  v.2.mapCpu fun c => { c with p := compareFlags c.x v.1 c.p }

/-- `CPX IMM` (R199). -/
def execCpxImm (imm8 : Byte) (s : State) : Result := .next (opCpx (.imm imm8) s)

/-- `CPX ZP` (R199). -/
def execCpxZp (zp8 : Byte) (s : State) : Result := .next (opCpx (.mem (.zp zp8)) s)

/-- `CPX ABS` (R199). -/
def execCpxAbs (abs16 : Word) (s : State) : Result := .next (opCpx (.mem (.abs abs16)) s)

/-- `CPY`: no register is written (R200). -/
def opCpy (src : Source) (s : State) : State :=
  let v := loadOperand src s
  v.2.mapCpu fun c => { c with p := compareFlags c.y v.1 c.p }

/-- `CPY IMM` (R200). -/
def execCpyImm (imm8 : Byte) (s : State) : Result := .next (opCpy (.imm imm8) s)

/-- `CPY ZP` (R200). -/
def execCpyZp (zp8 : Byte) (s : State) : Result := .next (opCpy (.mem (.zp zp8)) s)

/-- `CPY ABS` (R200). -/
def execCpyAbs (abs16 : Word) (s : State) : Result := .next (opCpy (.mem (.abs abs16)) s)

/-- `BIT`: `N` and `V` from the operand, `Z` from the and (R201). -/
def opBit (src : Source) (s : State) : State :=
  let v := loadOperand src s
  v.2.mapCpu fun c => { c with p := bitFlags c.a v.1 c.p }

/-- `BIT ZP` (R201). -/
def execBitZp (zp8 : Byte) (s : State) : Result := .next (opBit (.mem (.zp zp8)) s)

/-- `BIT ABS` (R201). -/
def execBitAbs (abs16 : Word) (s : State) : Result := .next (opBit (.mem (.abs abs16)) s)

end Sys2Proof.Machine
end

