-- ==== Sys2Proof/Machine/Control.lean ====
section
/-! DEFINITION. Jumps, subroutines, branches, BRK, RTI (44_control_flow.md R230 to R245). -/

namespace Sys2Proof.Machine

/-- The body of the eight branches (40_step_and_addressing.md R141, R230): the offset byte is always fetched; a taken
branch makes the dummy reads of R141. -/
def branch (cond : Bool) (rel8 : Byte) (s : State) : State :=
  let s := fetchOperand s
  if cond then
    let s := dummyFetch s
    let target := s.cpu.pc + sext16 rel8
    let s :=
      if hiByte target != hiByte s.cpu.pc then touch (word (hiByte s.cpu.pc) (loByte target)) s else s
    s.mapCpu fun c => { c with pc := target }
  else s

/-- `JMP` absolute: both operand bytes are read, then `pc <- {hi, lo}` (R231). -/
def opJmpAbs (target : Word) (s : State) : State :=
  (dummyFetch (fetchOperand s)).mapCpu fun c => { c with pc := target }

/-- `JMP` indirect: the pointer's second byte is read from the same page as the first (40_step_and_addressing.md R142,
R232). -/
def opJmpInd (ptr : Word) (s : State) : State :=
  let l := memRead ptr (fetchOperand (fetchOperand s))
  let h := memRead (word (hiByte ptr) (loByte ptr + 1)) l.2
  h.2.mapCpu fun c => { c with pc := word h.1 l.1 }

/-- `JSR`: the address of its own last byte is pushed, high byte first; the target's high byte is read AFTER the pushes,
from memory as it then is (R233; log 6). -/
def opJsr (target : Word) (s : State) : State :=
  let s := dummyStack (fetchOperand s)
  let s := push (loByte s.cpu.pc) (push (hiByte s.cpu.pc) s)
  let h := memRead s.cpu.pc s
  h.2.mapCpu fun c => { c with pc := word h.1 (loByte target) }

/-- `RTS`: pull the address, read there, continue one byte on (R234). -/
def opRts (s : State) : State :=
  let l := pull (dummyStack (dummyFetch s))
  let h := pull l.2
  let s := h.2.mapCpu fun c => { c with pc := word h.1 l.1 }
  incPc (dummyFetch s)

/-- `BRK`: the byte after it is fetched and discarded, then the exception is taken through the IRQ vector with bit 4 set
(R243). -/
def opBrk (s : State) : State := takeException true irqVector (fetchOperand s)

/-- `RTI`: two dummy reads, then the return from exception (R244). -/
def opRti (s : State) : State := returnFromException (dummyStack (dummyFetch s))

/-- `JMP ABS` (R231). -/
def execJmpAbs (abs16 : Word) (s : State) : Result := .next (opJmpAbs abs16 s)

/-- `JMP IND` (R232). -/
def execJmpInd (abs16 : Word) (s : State) : Result := .next (opJmpInd abs16 s)

/-- `JSR ABS` (R233). -/
def execJsr (abs16 : Word) (s : State) : Result := .next (opJsr abs16 s)

/-- `RTS IMP` (R234). -/
def execRts (s : State) : Result := .next (opRts s)

/-- `BCC REL` (R235). -/
def execBcc (rel8 : Byte) (s : State) : Result := .next (branch (!s.cpu.p.c) rel8 s)

/-- `BCS REL` (R236). -/
def execBcs (rel8 : Byte) (s : State) : Result := .next (branch s.cpu.p.c rel8 s)

/-- `BEQ REL` (R237). -/
def execBeq (rel8 : Byte) (s : State) : Result := .next (branch s.cpu.p.z rel8 s)

/-- `BNE REL` (R238). -/
def execBne (rel8 : Byte) (s : State) : Result := .next (branch (!s.cpu.p.z) rel8 s)

/-- `BMI REL` (R239). -/
def execBmi (rel8 : Byte) (s : State) : Result := .next (branch s.cpu.p.n rel8 s)

/-- `BPL REL` (R240). -/
def execBpl (rel8 : Byte) (s : State) : Result := .next (branch (!s.cpu.p.n) rel8 s)

/-- `BVC REL` (R241). -/
def execBvc (rel8 : Byte) (s : State) : Result := .next (branch (!s.cpu.p.v) rel8 s)

/-- `BVS REL` (R242). -/
def execBvs (rel8 : Byte) (s : State) : Result := .next (branch s.cpu.p.v rel8 s)

/-- `BRK IMP` (R243). -/
def execBrk (s : State) : Result := .next (opBrk s)

/-- `RTI IMP` (R244). -/
def execRti (s : State) : Result := .next (opRti s)

end Sys2Proof.Machine
end

