-- ==== Sys2Proof/Machine/LoadStore.lean ====
section
/-! DEFINITION. Loads, stores, register transfers (41_load_store_transfer.md R170 to R181): one shared operation for each mnemonic, one
meaning for each row of the opcode table. -/

namespace Sys2Proof.Machine

/-- `LDA`: `v <- loadOperand(format); A <- v; setZN(v)` (R170). -/
def opLda (src : Source) (s : State) : State :=
  let v := loadOperand src s
  v.2.mapCpu fun c => { c with a := v.1, p := setZN v.1 c.p }

/-- `LDA IMM` (R170). -/
def execLdaImm (imm8 : Byte) (s : State) : Result := .next (opLda (.imm imm8) s)

/-- `LDA ZP` (R170). -/
def execLdaZp (zp8 : Byte) (s : State) : Result := .next (opLda (.mem (.zp zp8)) s)

/-- `LDA ZPX` (R170). -/
def execLdaZpx (zp8 : Byte) (s : State) : Result := .next (opLda (.mem (.zpx zp8)) s)

/-- `LDA ABS` (R170). -/
def execLdaAbs (abs16 : Word) (s : State) : Result := .next (opLda (.mem (.abs abs16)) s)

/-- `LDA ABSX` (R170). -/
def execLdaAbsx (abs16 : Word) (s : State) : Result := .next (opLda (.mem (.absx abs16)) s)

/-- `LDA ABSY` (R170). -/
def execLdaAbsy (abs16 : Word) (s : State) : Result := .next (opLda (.mem (.absy abs16)) s)

/-- `LDA INDX` (R170). -/
def execLdaIndx (zp8 : Byte) (s : State) : Result := .next (opLda (.mem (.indx zp8)) s)

/-- `LDA INDY` (R170). -/
def execLdaIndy (zp8 : Byte) (s : State) : Result := .next (opLda (.mem (.indy zp8)) s)

/-- `LDX`: `v <- loadOperand(format); X <- v; setZN(v)` (R171). -/
def opLdx (src : Source) (s : State) : State :=
  let v := loadOperand src s
  v.2.mapCpu fun c => { c with x := v.1, p := setZN v.1 c.p }

/-- `LDX IMM` (R171). -/
def execLdxImm (imm8 : Byte) (s : State) : Result := .next (opLdx (.imm imm8) s)

/-- `LDX ZP` (R171). -/
def execLdxZp (zp8 : Byte) (s : State) : Result := .next (opLdx (.mem (.zp zp8)) s)

/-- `LDX ZPY` (R171). -/
def execLdxZpy (zp8 : Byte) (s : State) : Result := .next (opLdx (.mem (.zpy zp8)) s)

/-- `LDX ABS` (R171). -/
def execLdxAbs (abs16 : Word) (s : State) : Result := .next (opLdx (.mem (.abs abs16)) s)

/-- `LDX ABSY` (R171). -/
def execLdxAbsy (abs16 : Word) (s : State) : Result := .next (opLdx (.mem (.absy abs16)) s)

/-- `LDY`: `v <- loadOperand(format); Y <- v; setZN(v)` (R172). -/
def opLdy (src : Source) (s : State) : State :=
  let v := loadOperand src s
  v.2.mapCpu fun c => { c with y := v.1, p := setZN v.1 c.p }

/-- `LDY IMM` (R172). -/
def execLdyImm (imm8 : Byte) (s : State) : Result := .next (opLdy (.imm imm8) s)

/-- `LDY ZP` (R172). -/
def execLdyZp (zp8 : Byte) (s : State) : Result := .next (opLdy (.mem (.zp zp8)) s)

/-- `LDY ZPX` (R172). -/
def execLdyZpx (zp8 : Byte) (s : State) : Result := .next (opLdy (.mem (.zpx zp8)) s)

/-- `LDY ABS` (R172). -/
def execLdyAbs (abs16 : Word) (s : State) : Result := .next (opLdy (.mem (.abs abs16)) s)

/-- `LDY ABSX` (R172). -/
def execLdyAbsx (abs16 : Word) (s : State) : Result := .next (opLdy (.mem (.absx abs16)) s)

/-- `STA`: `storeOperand(format, A)`; no flag (R173). -/
def opSta (m : Mode) (s : State) : State := storeOperand m s.cpu.a s

/-- `STA ZP` (R173). -/
def execStaZp (zp8 : Byte) (s : State) : Result := .next (opSta (.zp zp8) s)

/-- `STA ZPX` (R173). -/
def execStaZpx (zp8 : Byte) (s : State) : Result := .next (opSta (.zpx zp8) s)

/-- `STA ABS` (R173). -/
def execStaAbs (abs16 : Word) (s : State) : Result := .next (opSta (.abs abs16) s)

/-- `STA ABSX` (R173). -/
def execStaAbsx (abs16 : Word) (s : State) : Result := .next (opSta (.absx abs16) s)

/-- `STA ABSY` (R173). -/
def execStaAbsy (abs16 : Word) (s : State) : Result := .next (opSta (.absy abs16) s)

/-- `STA INDX` (R173). -/
def execStaIndx (zp8 : Byte) (s : State) : Result := .next (opSta (.indx zp8) s)

/-- `STA INDY` (R173). -/
def execStaIndy (zp8 : Byte) (s : State) : Result := .next (opSta (.indy zp8) s)

/-- `STX`: `storeOperand(format, X)`; no flag (R174). -/
def opStx (m : Mode) (s : State) : State := storeOperand m s.cpu.x s

/-- `STX ZP` (R174). -/
def execStxZp (zp8 : Byte) (s : State) : Result := .next (opStx (.zp zp8) s)

/-- `STX ZPY` (R174). -/
def execStxZpy (zp8 : Byte) (s : State) : Result := .next (opStx (.zpy zp8) s)

/-- `STX ABS` (R174). -/
def execStxAbs (abs16 : Word) (s : State) : Result := .next (opStx (.abs abs16) s)

/-- `STY`: `storeOperand(format, Y)`; no flag (R175). -/
def opSty (m : Mode) (s : State) : State := storeOperand m s.cpu.y s

/-- `STY ZP` (R175). -/
def execStyZp (zp8 : Byte) (s : State) : Result := .next (opSty (.zp zp8) s)

/-- `STY ZPX` (R175). -/
def execStyZpx (zp8 : Byte) (s : State) : Result := .next (opSty (.zpx zp8) s)

/-- `STY ABS` (R175). -/
def execStyAbs (abs16 : Word) (s : State) : Result := .next (opSty (.abs abs16) s)

/-- `TAX IMP` (R176). -/
def execTax (s : State) : Result := .next (implied (fun c => { c with x := c.a, p := setZN c.a c.p }) s)

/-- `TAY IMP` (R177). -/
def execTay (s : State) : Result := .next (implied (fun c => { c with y := c.a, p := setZN c.a c.p }) s)

/-- `TXA IMP` (R178). -/
def execTxa (s : State) : Result := .next (implied (fun c => { c with a := c.x, p := setZN c.x c.p }) s)

/-- `TYA IMP` (R179). -/
def execTya (s : State) : Result := .next (implied (fun c => { c with a := c.y, p := setZN c.y c.p }) s)

/-- `TSX IMP` (R180). -/
def execTsx (s : State) : Result := .next (implied (fun c => { c with x := c.sp, p := setZN c.sp c.p }) s)

/-- `TXS IMP` (R181). -/
def execTxs (s : State) : Result := .next (implied (fun c => { c with sp := c.x }) s)

end Sys2Proof.Machine
end

