-- ==== Sys2Proof/Machine/Shift.lean ====
section
/-! DEFINITION. Shifts, rotates, increments, decrements (43_shift_incdec.md R210 to R219). The memory forms are `modifyOperand` with the
function of Flags.lean, the `ACC` forms `modifyAccumulator`. -/

namespace Sys2Proof.Machine

/-- `ASL ACC` (R210). -/
def execAslAcc (s : State) : Result := .next (modifyAccumulator aslResult s)

/-- `ASL ZP` (R210). -/
def execAslZp (zp8 : Byte) (s : State) : Result := .next (modifyOperand (.zp zp8) aslResult s)

/-- `ASL ZPX` (R210). -/
def execAslZpx (zp8 : Byte) (s : State) : Result := .next (modifyOperand (.zpx zp8) aslResult s)

/-- `ASL ABS` (R210). -/
def execAslAbs (abs16 : Word) (s : State) : Result := .next (modifyOperand (.abs abs16) aslResult s)

/-- `ASL ABSX` (R210). -/
def execAslAbsx (abs16 : Word) (s : State) : Result := .next (modifyOperand (.absx abs16) aslResult s)

/-- `LSR ACC` (R211). -/
def execLsrAcc (s : State) : Result := .next (modifyAccumulator lsrResult s)

/-- `LSR ZP` (R211). -/
def execLsrZp (zp8 : Byte) (s : State) : Result := .next (modifyOperand (.zp zp8) lsrResult s)

/-- `LSR ZPX` (R211). -/
def execLsrZpx (zp8 : Byte) (s : State) : Result := .next (modifyOperand (.zpx zp8) lsrResult s)

/-- `LSR ABS` (R211). -/
def execLsrAbs (abs16 : Word) (s : State) : Result := .next (modifyOperand (.abs abs16) lsrResult s)

/-- `LSR ABSX` (R211). -/
def execLsrAbsx (abs16 : Word) (s : State) : Result := .next (modifyOperand (.absx abs16) lsrResult s)

/-- `ROL ACC` (R212). -/
def execRolAcc (s : State) : Result := .next (modifyAccumulator rolResult s)

/-- `ROL ZP` (R212). -/
def execRolZp (zp8 : Byte) (s : State) : Result := .next (modifyOperand (.zp zp8) rolResult s)

/-- `ROL ZPX` (R212). -/
def execRolZpx (zp8 : Byte) (s : State) : Result := .next (modifyOperand (.zpx zp8) rolResult s)

/-- `ROL ABS` (R212). -/
def execRolAbs (abs16 : Word) (s : State) : Result := .next (modifyOperand (.abs abs16) rolResult s)

/-- `ROL ABSX` (R212). -/
def execRolAbsx (abs16 : Word) (s : State) : Result := .next (modifyOperand (.absx abs16) rolResult s)

/-- `ROR ACC` (R213). -/
def execRorAcc (s : State) : Result := .next (modifyAccumulator rorResult s)

/-- `ROR ZP` (R213). -/
def execRorZp (zp8 : Byte) (s : State) : Result := .next (modifyOperand (.zp zp8) rorResult s)

/-- `ROR ZPX` (R213). -/
def execRorZpx (zp8 : Byte) (s : State) : Result := .next (modifyOperand (.zpx zp8) rorResult s)

/-- `ROR ABS` (R213). -/
def execRorAbs (abs16 : Word) (s : State) : Result := .next (modifyOperand (.abs abs16) rorResult s)

/-- `ROR ABSX` (R213). -/
def execRorAbsx (abs16 : Word) (s : State) : Result := .next (modifyOperand (.absx abs16) rorResult s)

/-- `INC ZP` (R214). -/
def execIncZp (zp8 : Byte) (s : State) : Result := .next (modifyOperand (.zp zp8) incResult s)

/-- `INC ZPX` (R214). -/
def execIncZpx (zp8 : Byte) (s : State) : Result := .next (modifyOperand (.zpx zp8) incResult s)

/-- `INC ABS` (R214). -/
def execIncAbs (abs16 : Word) (s : State) : Result := .next (modifyOperand (.abs abs16) incResult s)

/-- `INC ABSX` (R214). -/
def execIncAbsx (abs16 : Word) (s : State) : Result := .next (modifyOperand (.absx abs16) incResult s)

/-- `DEC ZP` (R215). -/
def execDecZp (zp8 : Byte) (s : State) : Result := .next (modifyOperand (.zp zp8) decResult s)

/-- `DEC ZPX` (R215). -/
def execDecZpx (zp8 : Byte) (s : State) : Result := .next (modifyOperand (.zpx zp8) decResult s)

/-- `DEC ABS` (R215). -/
def execDecAbs (abs16 : Word) (s : State) : Result := .next (modifyOperand (.abs abs16) decResult s)

/-- `DEC ABSX` (R215). -/
def execDecAbsx (abs16 : Word) (s : State) : Result := .next (modifyOperand (.absx abs16) decResult s)

/-- `INX IMP` (R216). -/
def execInx (s : State) : Result := .next (implied (fun c => { c with x := c.x + 1, p := setZN (c.x + 1) c.p }) s)

/-- `INY IMP` (R217). -/
def execIny (s : State) : Result := .next (implied (fun c => { c with y := c.y + 1, p := setZN (c.y + 1) c.p }) s)

/-- `DEX IMP` (R218). -/
def execDex (s : State) : Result := .next (implied (fun c => { c with x := c.x - 1, p := setZN (c.x - 1) c.p }) s)

/-- `DEY IMP` (R219). -/
def execDey (s : State) : Result := .next (implied (fun c => { c with y := c.y - 1, p := setZN (c.y - 1) c.p }) s)

end Sys2Proof.Machine
end

