-- ==== Sys2Proof/Machine/Stack.lean ====
section
/-! DEFINITION. Stack, flag and no-operation instructions (45_stack_flags_nop.md R250 to R261). -/

namespace Sys2Proof.Machine

/-- `PLA`: dummy reads, then `A <- pull(); setZN(A)` (R252). -/
def opPla (s : State) : State :=
  let v := pull (dummyStack (dummyFetch s))
  v.2.mapCpu fun c => { c with a := v.1, p := setZN v.1 c.p }

/-- `PLP`: dummy reads, then `unpackP(pull())` (R253). -/
def opPlp (s : State) : State :=
  let v := pull (dummyStack (dummyFetch s))
  v.2.mapCpu fun c => { c with p := unpackP v.1 c.p }

/-- `PHA IMP` (R250). -/
def execPha (s : State) : Result := .next (push s.cpu.a (dummyFetch s))

/-- `PHP IMP` (R251). -/
def execPhp (s : State) : Result := .next (push (packP true s.cpu.p) (dummyFetch s))

/-- `PLA IMP` (R252). -/
def execPla (s : State) : Result := .next (opPla s)

/-- `PLP IMP` (R253). -/
def execPlp (s : State) : Result := .next (opPlp s)

/-- `CLC IMP` (R254). -/
def execClc (s : State) : Result := .next (implied (fun c => { c with p := { c.p with c := false } }) s)

/-- `SEC IMP` (R255). -/
def execSec (s : State) : Result := .next (implied (fun c => { c with p := { c.p with c := true } }) s)

/-- `CLI IMP` (R256). -/
def execCli (s : State) : Result := .next (implied (fun c => { c with p := { c.p with i := false } }) s)

/-- `SEI IMP` (R257). -/
def execSei (s : State) : Result := .next (implied (fun c => { c with p := { c.p with i := true } }) s)

/-- `CLD IMP` (R258). -/
def execCld (s : State) : Result := .next (implied (fun c => { c with p := { c.p with d := false } }) s)

/-- `SED IMP` (R259). -/
def execSed (s : State) : Result := .next (implied (fun c => { c with p := { c.p with d := true } }) s)

/-- `CLV IMP` (R260). -/
def execClv (s : State) : Result := .next (implied (fun c => { c with p := { c.p with v := false } }) s)

/-- `NOP IMP` (R261). -/
def execNop (s : State) : Result := .next (dummyFetch s)

end Sys2Proof.Machine
end

