-- ==== Sys2Proof/Machine/Undefined.lean ====
section
/-! DEFINITION. Undefined opcodes (46_undefined_opcodes.md R270). -/

namespace Sys2Proof.Machine

/-- `JAM`: `PC` is put back on the opcode, which has been fetched, and `jammed` is set (R270, 60_exceptions.md R325). The
opcode value makes no difference. -/
def execJam (_opcode : Byte) (s : State) : Result :=
  .next (s.mapCpu fun c => { c with pc := c.pc - 1, jammed := true })

end Sys2Proof.Machine
end

