-- ==== Sys2Proof/Machine/Engine.lean ====
section
/-! DEFINITION. The step algorithm (40_step_and_addressing.md R120 to R125, 60_exceptions.md R311 to R315, R321 to R326).
"Line n" is a line of R121. -/

namespace Sys2Proof.Machine

/-- The instruction at an address: the opcode byte and the bytes after it, as the bus answers the fetches one after
another, decoded (40_step_and_addressing.md R125; log 5). -/
def instrAt (b : Bus) (pc : Word) : Instr :=
  let opcode := busRead b pc
  let byte1 := busRead opcode.2 (pc + 1)
  let byte2 := busRead byte1.2 (pc + 2)
  decodeBytes opcode.1 byte1.1 byte2.1

/-- Line 2, and the trace of the last step put away (log 8). -/
def beginStep (s : State) : State := { s with watchHit := none, trace := [] }

/-- Lines 3 and 4: the interrupt lines are sampled (60_exceptions.md R311). -/
def sampleLines (s : State) : State :=
  { s with nmiPending := s.nmiPending || (s.nmiLine && !s.nmiPrev), nmiPrev := s.nmiLine }

/-- Lines 27 to 30 and line 25: the outcome of a step that made accesses; `Jammed` outranks a watchpoint match
(40_step_and_addressing.md R124). -/
def finish (s : State) : State :=
  { s with
    outcome := some (
      if s.cpu.jammed then .jammed
      else match s.watchHit with
        | some a => .trapped ⟨a, .watchpoint, s.cpu⟩
        | none => .ok) }

/-- `finish` after an instruction. -/
def finishResult (r : Result) : Result :=
  match r with
  | .next s => .next (finish s)
  | .fault f => .fault f
  | .refused x => .refused x

/-- Lines 20 to 30: the opcode is fetched and its instruction runs to its end (40_step_and_addressing.md R122). -/
def runInstruction (s : State) : Result := finishResult (exec (instrAt s.bus s.cpu.pc) (fetch s).2)

/-- Line 18: a breakpoint trap, which changes `bp_skip` and nothing else of the machine (60_exceptions.md R321). -/
def breakpointTrap (s : State) : State :=
  { s with bpSkip := some s.cpu.pc, outcome := some (.trapped ⟨s.cpu.pc, .breakpoint, s.cpu⟩) }

/-- Lines 12 to 26: the breakpoint lookup, bypassed once after a trap at this address (49_debugger.md R293), then the
instruction. -/
def fetchStage (s : State) : Result :=
  if s.bpSkip = some s.cpu.pc then runInstruction { s with bpSkip := none }
  else
    let r := checkFetch s.bps s.cpu.pc
    let s := { s with bpSkip := none, bps := r.2 }
    match r.1 with
    | some _ => .next (breakpointTrap s)
    | none => runInstruction s

/-- Lines 5 to 30 after the sample: NMI, then IRQ, then the fetch stage (40_step_and_addressing.md R123, 60_exceptions.md
R312, R313, R315). -/
def serviceOrFetch (s : State) : Result :=
  if s.nmiPending then .next (finish (interruptSequence nmiVector { s with nmiPending := false }))
  else if s.irqLine && !s.cpu.p.i then .next (finish (interruptSequence irqVector s))
  else fetchStage s

/-- Line 1: a jammed engine does nothing and answers `Jammed` (60_exceptions.md R326). -/
def jammedStep (s : State) : State := { s with outcome := some .jammed, trace := [] }

/-- `step(irq_line, nmi_line)` (40_step_and_addressing.md R121), the lines being those of the state. -/
def engineStep (s : State) : Result :=
  if s.cpu.jammed then .next (jammedStep s) else serviceOrFetch (sampleLines (beginStep s))

/-- The engine's state machine (10_state.md R38). -/
inductive EngineState where
  | running | jammed | awaitingInterruptService
  deriving DecidableEq, Repr

/-- The state-machine state at a step boundary, derived from the tuple and the line (10_state.md R38, decision D28). -/
def engineState (s : State) : EngineState :=
  if s.cpu.jammed then .jammed
  else if s.nmiPending || (s.irqLine && !s.cpu.p.i) then .awaitingInterruptService
  else .running

/-- The three bytes of a word, the first in bits 7..0. -/
def wordBytes (w : Nat) : List Byte := [BitVec.ofNat 8 w, BitVec.ofNat 8 (w / 256), BitVec.ofNat 8 (w / 65536)]

end Sys2Proof.Machine
end

