-- ==== Sys2Proof/Machine/Step.lean ====
section
/-! DEFINITION. One step of the machine, and the placing of one instruction where it fetches. -/

namespace Sys2Proof.Machine

/-- One call of `step()` (40_step_and_addressing.md R120, R121). -/
def step (s : State) : Host.Outcome State Fault Refusal := engineStep s

/-- The state with the bytes of a row's word at `PC`, the bits above `nbits` being 0: the load of a program from outside
the machine (log 12). -/
def State.withFetchWord (s : State) (nbits w : Nat) : State :=
  { s with bus := s.bus.place s.cpu.pc (wordBytes (w % 2 ^ nbits)) }

end Sys2Proof.Machine
end

