-- ==== Sys2Proof/Machine/Commands.lean ====
section
/-! DEFINITION. What the outside world does to the machine between steps: the host's commands (49_debugger.md R287 to
R292, 70_reset_and_hazards.md R350 to R354), the environment's actions (20_memory.md R61, 10_state.md R41), the observer
of traps (49_debugger.md R292, R296) and the loop that calls `step()` (70_reset_and_hazards.md R360). -/

namespace Sys2Proof.Machine

/-- `reset()` (70_reset_and_hazards.md R350): ProcessorState, `cycles` and the latches are set, `PC` comes from two
unchecked bus reads; the tables and the lines are unchanged, and an undelivered outcome is discarded (R351). -/
def resetProcessor (s : State) : State :=
  let l := busRead s.bus resetVector
  let h := busRead l.2 (resetVector + 1)
  { s with
    cpu := {
      a := 0x00, x := 0x00, y := 0x00, sp := 0xFD, pc := word h.1 l.1
      p := { n := false, v := false, b := true, d := false, i := true, z := false, c := false }
      jammed := false }
    cycles := 0
    nmiPrev := false
    nmiPending := false
    bpSkip := none
    watchHit := none
    bus := h.2
    outcome := none
    trace := [] }

/-- `setBreakpoint(addr, kind)`: the record is enabled (49_debugger.md R282, R287); it is no longer one that
`singleStep()` armed. -/
def setBreakpoint (address : Word) (kind : BreakKind) (s : State) : State :=
  { s with
    bps := putBreakpoint ⟨address, kind, true⟩ s.bps
    stepArmed := removeKey BitVec.toNat address.toNat s.stepArmed }

/-- `clearBreakpoint(addr)` (49_debugger.md R288). -/
def clearBreakpoint (address : Word) (s : State) : State :=
  { s with
    bps := removeBreakpoint address s.bps
    stepArmed := removeKey BitVec.toNat address.toNat s.stepArmed }

/-- `setWatchpoint(addr, access)`: the record is enabled (49_debugger.md R289). -/
def setWatchpoint (address : Word) (access : WatchAccess) (s : State) : State :=
  { s with wps := putWatchpoint ⟨address, access, true⟩ s.wps }

/-- `clearWatchpoint(addr, access)` (49_debugger.md R290). -/
def clearWatchpoint (address : Word) (access : WatchAccess) (s : State) : State :=
  { s with wps := removeWatchpoint address access s.wps }

/-- `enabled` of the breakpoint at an address, written and nothing else: the enable/disable command that 49_debugger.md
R282 lets a model add (log 18). -/
def enableBreakpoint (address : Word) (enabled : Bool) (s : State) : State :=
  { s with bps := s.bps.map fun b => if b.address = address then { b with enabled := enabled } else b }

/-- `enabled` of the watchpoint of an (address, access) pair, written and nothing else (49_debugger.md R282; log 18). -/
def enableWatchpoint (address : Word) (access : WatchAccess) (enabled : Bool) (s : State) : State :=
  { s with
    wps := s.wps.map fun w => if w.address = address ∧ w.access = access then { w with enabled := enabled } else w }

/-- The address after the current instruction's length, its opcode read by `Peek` (49_debugger.md R292). -/
def stepAddress (s : State) : Word := s.cpu.pc + BitVec.ofNat 16 (instrLength (peek s.bus s.cpu.pc))

/-- `singleStep()`: arm an enabled soft breakpoint after the current instruction's length; the observer keeps in mind
that it was armed so (49_debugger.md R292; log 24). -/
def singleStep (s : State) : State :=
  { setBreakpoint (stepAddress s) .soft s with stepArmed := putKey BitVec.toNat (stepAddress s) s.stepArmed }

/-- `captureSnapshot()`: the tuple of 10_state.md R20 (70_reset_and_hazards.md R353). -/
def captureSnapshot (s : State) : Snapshot :=
  ⟨s.cpu, s.cycles, s.nmiPrev, s.nmiPending, s.bpSkip, s.bps, s.wps⟩

/-- The invariants a loaded tuple must satisfy (70_reset_and_hazards.md R353; 10_state.md R39 (b), (e); log 15). -/
abbrev Snapshot.wf (t : Snapshot) : Prop :=
  t.cpu.p.b = true ∧ Keyed breakKey t.bps ∧ Keyed watchKey t.wps

/-- The tuple put in the place of the state's own (70_reset_and_hazards.md R353); a loaded breakpoint is none that
`singleStep()` armed in this session (log 24). -/
def restoreSnapshot (t : Snapshot) (s : State) : State :=
  { s with
    cpu := t.cpu, cycles := t.cycles, nmiPrev := t.nmiPrev, nmiPending := t.nmiPending
    bpSkip := t.bpSkip, bps := t.bps, wps := t.wps, stepArmed := [] }

/-- The lines as their drivers set them (10_state.md R41; log 3). -/
def setLines (irq nmi : Bool) (s : State) : State := { s with irqLine := irq, nmiLine := nmi }

/-- The environment changes bytes of RAM and ROM between steps, in the order given (20_memory.md R61; log 19). -/
def setBytes (l : List (Word × Byte)) (s : State) : State :=
  { s with bus := { s.bus with mem := l.foldl (fun m c => m.write c.1 c.2) s.bus.mem } }

/-- The environment changes the map of the bus between steps (20_memory.md R61; log 19). -/
def setMap (regions : List BusRegion) (s : State) : State := { s with bus := { s.bus with regions := regions } }

/-- A device changes by itself between steps (20_memory.md R61; log 19). -/
def deviceChange (change : Nat) (s : State) : State :=
  { s with bus := { s.bus with events := s.bus.events ++ [.environment change] } }

/-- A call from outside, made between two steps. -/
inductive HostCall where
  | step
  | reset
  | setBreakpoint (address : Word) (kind : BreakKind)
  | clearBreakpoint (address : Word)
  | setWatchpoint (address : Word) (access : WatchAccess)
  | clearWatchpoint (address : Word) (access : WatchAccess)
  | enableBreakpoint (address : Word) (enabled : Bool)
  | enableWatchpoint (address : Word) (access : WatchAccess) (enabled : Bool)
  | singleStep
  | captureSnapshot
  | loadSnapshot (t : Snapshot)
  | configure (option value : String)
  | setLines (irq nmi : Bool)
  | setBytes (l : List (Word × Byte))
  | setMap (regions : List BusRegion)
  | deviceChange (change : Nat)
  deriving DecidableEq, Repr

/-- What a call returns. -/
inductive Reply where
  /-- A command that returns nothing. -/
  | done
  /-- The outcome of `step()` (10_state.md R42). -/
  | stepped (o : Option StepOutcome)
  /-- The tuple of `captureSnapshot()`. -/
  | snapshot (t : Snapshot)
  /-- A configuration error; the state is unchanged (70_reset_and_hazards.md R354). -/
  | configError
  deriving DecidableEq, Repr

/-- The result of a call: the reply and the state after it. -/
abbrev CallResult := Host.Outcome (Reply × State) Fault Refusal

/-- `configure(option, value)`: every option is a configuration error (70_reset_and_hazards.md R354). -/
def configure (option _value : String) (s : State) : Reply × State :=
  if Config.acceptedOptions.contains option then (.done, s) else (.configError, s)

/-- One call. `loadSnapshot` of a tuple that breaks the invariants is refused (93_implementation_defined.md U6). -/
def hostCall (c : HostCall) (s : State) : CallResult :=
  match c with
  | .step =>
    match Machine.step s with
    | .next t => .next (.stepped t.outcome, t)
    | .fault f => .fault f
    | .refused x => .refused x
  | .reset => .next (.done, resetProcessor s)
  | .setBreakpoint a k => .next (.done, Machine.setBreakpoint a k s)
  | .clearBreakpoint a => .next (.done, Machine.clearBreakpoint a s)
  | .setWatchpoint a k => .next (.done, Machine.setWatchpoint a k s)
  | .clearWatchpoint a k => .next (.done, Machine.clearWatchpoint a k s)
  | .enableBreakpoint a e => .next (.done, Machine.enableBreakpoint a e s)
  | .enableWatchpoint a k e => .next (.done, Machine.enableWatchpoint a k e s)
  | .singleStep => .next (.done, Machine.singleStep s)
  | .captureSnapshot => .next (.snapshot (Machine.captureSnapshot s), s)
  | .loadSnapshot t => if t.wf then .next (.done, restoreSnapshot t s) else .refused .invalidSnapshot
  | .configure o v => .next (Machine.configure o v s)
  | .setLines i n => .next (.done, Machine.setLines i n s)
  | .setBytes l => .next (.done, Machine.setBytes l s)
  | .setMap r => .next (.done, Machine.setMap r s)
  | .deviceChange n => .next (.done, Machine.deviceChange n s)

/-- A list of calls, one after another: calls land between steps, never inside one (40_step_and_addressing.md R122,
49_debugger.md R291). -/
def session (calls : List HostCall) (s : State) : Host.Outcome State Fault Refusal :=
  match calls with
  | [] => .next s
  | c :: rest =>
    match hostCall c s with
    | .next r => session rest r.2
    | .fault f => .fault f
    | .refused x => .refused x

/-- The kind of a notification: a trap's kind, "single-step completion", or a jam (10_state.md R42, 49_debugger.md R292).
-/
inductive NotificationKind where
  | breakpoint | watchpoint | singleStep | jam
  deriving DecidableEq, Repr

/-- What the observer delivers: `{address, kind, processorStateSnapshot}` (49_debugger.md R296). -/
structure Notification where
  address : Word
  kind : NotificationKind
  state : ProcessorState
  deriving DecidableEq, Repr

/-- The kind under which the observer reports a trap: a breakpoint that `singleStep()` armed is single-step completion
(49_debugger.md R292; log 24). -/
def trapNotice (stepArmed : List Word) (t : ExecutionTrap) : NotificationKind :=
  match t.kind with
  | .watchpoint => .watchpoint
  | .breakpoint => if t.address ∈ stepArmed then .singleStep else .breakpoint

/-- The notification of a step from `before` to `after`: every trap, and the jam once, on the step that set `jammed`
(49_debugger.md R296, 10_state.md R42). -/
def notification (before after : State) : Option Notification :=
  match after.outcome with
  | some (.trapped t) => some ⟨t.address, trapNotice before.stepArmed t, t.state⟩
  | some .jammed => if before.cpu.jammed then none else some ⟨after.cpu.pc, .jam, after.cpu⟩
  | _ => none

/-- How a run ended. -/
inductive RunEnd where
  /-- The cycle budget is consumed: `Completed` (60_exceptions.md R333). -/
  | completed
  /-- A step had an outcome other than `Ok`. -/
  | stopped (o : StepOutcome)
  /-- The loop's own bound on the number of steps was reached (log 22). -/
  | outOfFuel
  deriving DecidableEq, Repr

/-- The loop that calls `step()`: it stops at the first step boundary at which the budget, if there is one, is consumed,
or at the first outcome other than `Ok` (70_reset_and_hazards.md R360, 60_exceptions.md R333). `start` is `cycles` at its
start; `fuel` bounds the number of steps (log 22). -/
def runLoop (budget : Option Nat) (start : Nat) : Nat → State → Host.Outcome (RunEnd × State) Fault Refusal
  | fuel, s =>
    if budget.any fun b => b ≤ s.cycles - start then .next (.completed, s)
    else match fuel with
      | 0 => .next (.outOfFuel, s)
      | fuel + 1 =>
        match step s with
        | .next t =>
          match t.outcome with
          | some (.trapped x) => .next (.stopped (.trapped x), t)
          | some .jammed => .next (.stopped .jammed, t)
          | some .ok | none => runLoop budget start fuel t
        | .fault f => .fault f
        | .refused x => .refused x

end Sys2Proof.Machine
end

