-- ==== Sys2Proof/Safety.lean ====
section
/-! DEFINITION. The terms the claims use: what a list of bus requests does to the state, whatever the bus; the addresses,
accesses and operand bytes of each format written as pure functions of the state before the operand fetches; the forms
each mnemonic has with their opcodes, the flags each instruction may write, its documented cost, and the invariant. -/

namespace Sys2Proof.Machine

/-- An access as the engine issues it: what it asks of the bus (20_memory.md R63, R64). -/
inductive Request where
  | read (address : Word)
  | write (address : Word) (value : Byte)
  deriving DecidableEq, Repr

/-- The trace entry of a request that this bus serves (20_memory.md R67). -/
def Bus.access (b : Bus) : Request → Access
  | .read a => ⟨.read, a, peek b a⟩
  | .write a v => ⟨.write, a, v⟩

/-- The bus after one request (20_memory.md R61). -/
def Bus.serve (b : Bus) : Request → Bus
  | .read a => (busRead b a).2
  | .write a v => busWrite b a v

/-- The bus after requests in order. -/
def Bus.after (b : Bus) (l : List Request) : Bus := l.foldl Bus.serve b

/-- The trace entries of requests in order, each served by the bus as those before it left it (20_memory.md R75). -/
def Bus.accesses (b : Bus) : List Request → List Access
  | [] => []
  | q :: l => b.access q :: (b.serve q).accesses l

/-- The address of the first access of a list that an enabled watchpoint matches (20_memory.md R65). -/
def firstMatch (wps : List Watchpoint) (l : List Access) : Option Word :=
  (l.find? fun x => (checkAccess wps x.address x.kind).isSome).map Access.address

/-- What requests do, and all they do: one cycle and one trace entry each, their effect on the bus, and the first
watchpoint match of the step (20_memory.md R63 to R67, 40_step_and_addressing.md R150). -/
def State.perform (l : List Request) (s : State) : State :=
  { s with
    cycles := s.cycles + l.length
    trace := s.trace ++ s.bus.accesses l
    bus := s.bus.after l
    watchHit := s.watchHit.or (firstMatch s.wps (s.bus.accesses l)) }

/-- The operand bytes of a memory format (30_encoding.md R91, R93). -/
def Mode.bytes : Mode → List Byte
  | .zp z | .zpx z | .zpy z | .indx z | .indy z => [z]
  | .abs w | .absx w | .absy w => [loByte w, hiByte w]

/-- The operand bytes of a read-class operand (30_encoding.md R91, R93). -/
def Source.bytes : Source → List Byte
  | .imm v => [v]
  | .mem m => m.bytes

/-- The number of operand bytes, as a `PC` increment. -/
def Source.size (src : Source) : Word := BitVec.ofNat 16 src.bytes.length

/-- A zero-page address: a number reduced modulo 256 (40_step_and_addressing.md R134). -/
def zeroPage (n : Nat) : Word := BitVec.ofNat 16 (n % 256)

/-- The little-endian pointer that two reads at a zero-page place answer, the second place wrapping inside the page
(40_step_and_addressing.md R139, R140). -/
def zeroPageWord (b : Bus) (n : Nat) : Word :=
  BitVec.ofNat 16
    ((peek b (zeroPage n)).toNat + 256 * (peek (b.after [.read (zeroPage n)]) (zeroPage (n + 1))).toNat)

/-- The pointer of `(zp,X)`: read after the operand fetch and the dummy read (40_step_and_addressing.md R139). -/
def indxPointer (z : Byte) (s : State) : Word :=
  zeroPageWord (s.bus.after [.read s.cpu.pc, .read (zeroPage z.toNat)]) (z.toNat + s.cpu.x.toNat)

/-- The pointer of `(zp),Y`: read after the operand fetch (40_step_and_addressing.md R140). -/
def indyPointer (z : Byte) (s : State) : Word := zeroPageWord (s.bus.after [.read s.cpu.pc]) z.toNat

/-- The base and index of the formats that have `early` and `crossed` (40_step_and_addressing.md R137, R138, R140). -/
def indexBase (m : Mode) (s : State) : Option (Word × Byte) :=
  match m with
  | .absx w => some (w, s.cpu.x)
  | .absy w => some (w, s.cpu.y)
  | .indy z => some (indyPointer z s, s.cpu.y)
  | .zp _ | .zpx _ | .zpy _ | .abs _ | .indx _ => none

/-- `ea` of each format (40_step_and_addressing.md R133 to R140). -/
def effectiveAddress (m : Mode) (s : State) : Word :=
  match m with
  | .zp z => zeroPage z.toNat
  | .zpx z => zeroPage (z.toNat + s.cpu.x.toNat)
  | .zpy z => zeroPage (z.toNat + s.cpu.y.toNat)
  | .abs w => w
  | .absx w => BitVec.ofNat 16 (w.toNat + s.cpu.x.toNat)
  | .absy w => BitVec.ofNat 16 (w.toNat + s.cpu.y.toNat)
  | .indx z => indxPointer z s
  | .indy z => BitVec.ofNat 16 ((indyPointer z s).toNat + s.cpu.y.toNat)

/-- `early`: the index added to the low byte only (40_step_and_addressing.md R137). -/
def earlyAddress (m : Mode) (s : State) : Option Word :=
  (indexBase m s).map fun b =>
    BitVec.ofNat 16 (b.1.toNat / 256 * 256 + (b.1.toNat % 256 + b.2.toNat) % 256)

/-- `crossed` (40_step_and_addressing.md R137). -/
def pageCrossed (m : Mode) (s : State) : Bool :=
  (indexBase m s).any fun b => 0xFF < b.1.toNat % 256 + b.2.toNat

/-- The address-resolution accesses after the opcode fetch (40_step_and_addressing.md R133 to R140). -/
def addressRequests (m : Mode) (s : State) : List Request :=
  match m with
  | .zp _ => [.read s.cpu.pc]
  | .zpx z | .zpy z => [.read s.cpu.pc, .read (zeroPage z.toNat)]
  | .abs _ | .absx _ | .absy _ => [.read s.cpu.pc, .read (s.cpu.pc + 1)]
  | .indx z =>
    [.read s.cpu.pc, .read (zeroPage z.toNat), .read (zeroPage (z.toNat + s.cpu.x.toNat)),
      .read (zeroPage (z.toNat + s.cpu.x.toNat + 1))]
  | .indy z => [.read s.cpu.pc, .read (zeroPage z.toNat), .read (zeroPage (z.toNat + 1))]

/-- The dummy read at `early`, where the format has one. -/
def earlyRequests (m : Mode) (s : State) : List Request := ((earlyAddress m s).map .read).toList

/-- The accesses of the read class before its data read: the dummy read at `early` only on a page crossing
(40_step_and_addressing.md R144). -/
def loadRequests (m : Mode) (s : State) : List Request :=
  addressRequests m s ++ (if pageCrossed m s then earlyRequests m s else [])

/-- The accesses of the write and the read-modify-write class before their data access: the dummy read at `early` always
(40_step_and_addressing.md R145, R146). -/
def storeRequests (m : Mode) (s : State) : List Request := addressRequests m s ++ earlyRequests m s

/-- The operand byte of the read class: what its data read answers (40_step_and_addressing.md R144). -/
def operandByte (src : Source) (s : State) : Byte :=
  match src with
  | .imm v => v
  | .mem m => peek (s.bus.after (loadRequests m s)) (effectiveAddress m s)

/-- The old byte of the read-modify-write class: what its data read answers (40_step_and_addressing.md R145). -/
def modifiedByte (m : Mode) (s : State) : Byte := peek (s.bus.after (storeRequests m s)) (effectiveAddress m s)

/-- The accesses of the read class after the opcode fetch: the table of 40_step_and_addressing.md R144. -/
def readRequests (src : Source) (s : State) : List Request :=
  match src with
  | .imm _ => [.read s.cpu.pc]
  | .mem m => loadRequests m s ++ [.read (effectiveAddress m s)]

/-- The accesses of the write class after the opcode fetch: the table of 40_step_and_addressing.md R146. -/
def writeRequests (m : Mode) (v : Byte) (s : State) : List Request :=
  storeRequests m s ++ [.write (effectiveAddress m s) v]

/-- The accesses of the read-modify-write class after the opcode fetch, `r` being the new byte: the table of
40_step_and_addressing.md R145. -/
def modifyRequests (m : Mode) (r : Byte) (s : State) : List Request :=
  storeRequests m s ++
    [.read (effectiveAddress m s), .write (effectiveAddress m s) (modifiedByte m s), .write (effectiveAddress m s) r]

/-- A read-class instruction done: its accesses, `PC` past the operand bytes, then `f` of the operand byte
(40_step_and_addressing.md R144). -/
def State.afterRead (src : Source) (f : Byte → ProcessorState → ProcessorState) (s : State) : State :=
  (s.perform (readRequests src s)).mapCpu fun c => f (operandByte src s) { c with pc := c.pc + src.size }

/-- A write-class instruction done (40_step_and_addressing.md R146). -/
def State.afterStore (m : Mode) (v : Byte) (s : State) : State :=
  (s.perform (writeRequests m v s)).mapCpu fun c => { c with pc := c.pc + BitVec.ofNat 16 m.bytes.length }

/-- A read-modify-write instruction done, `r` being the new byte and `p` the flags after it (40_step_and_addressing.md
R145). -/
def State.afterModify (m : Mode) (r : Byte) (p : Flags) (s : State) : State :=
  (s.perform (modifyRequests m r s)).mapCpu fun c =>
    { c with pc := c.pc + BitVec.ofNat 16 m.bytes.length, p := p }

/-- A one-byte instruction done: the dummy read at `PC`, then the registers are `c` (40_step_and_addressing.md R130). -/
def State.afterImplied (c : ProcessorState) (s : State) : State := (s.perform [.read s.cpu.pc]).mapCpu fun _ => c

/-- `Z` and `N` of a byte (10_state.md R30). -/
def withZN (v : Byte) (p : Flags) : Flags := { p with z := decide (v.toNat = 0), n := decide (128 ≤ v.toNat) }

/-- The address of the stack byte `n` below `S`, wrapping in the stack page (20_memory.md R68, R69). -/
def stackBelow (s : State) (n : Nat) : Word := BitVec.ofNat 16 (256 + (s.cpu.sp.toNat + 256 - n) % 256)

/-- The address of the stack byte `n` above `S`, wrapping in the stack page (20_memory.md R68, R69). -/
def stackAbove (s : State) (n : Nat) : Word := BitVec.ofNat 16 (256 + (s.cpu.sp.toNat + n) % 256)

/-- The stack pointer `n` lower, modulo 256 (20_memory.md R68). -/
def spMinus (s : State) (n : Nat) : Byte := BitVec.ofNat 8 (s.cpu.sp.toNat + 256 - n)

/-- The stack pointer `n` higher, modulo 256 (20_memory.md R69). -/
def spPlus (s : State) (n : Nat) : Byte := BitVec.ofNat 8 (s.cpu.sp.toNat + n)

/-- The byte that a read at `a` answers after these requests. -/
def State.answer (l : List Request) (a : Word) (s : State) : Byte := peek (s.bus.after l) a

/-- The little-endian word that the two reads of a vector answer after these requests (60_exceptions.md R314). -/
def vectorWord (l : List Request) (vec : Word) (s : State) : Word :=
  word (s.answer (l ++ [.read vec]) (vec + 1)) (s.answer l vec)

/-- The pushes of an exception entry: the return address `ret`, high byte first, and the status with bit 4 = `b`
(60_exceptions.md R314, R319). -/
def entryPushes (b : Bool) (ret : Word) (s : State) : List Request :=
  [.write (stackBelow s 0) (hiByte ret), .write (stackBelow s 1) (loByte ret), .write (stackBelow s 2) (packP b s.cpu.p)]

/-- An exception entry done, `l` being the accesses up to its vector reads: they are performed, then the two reads of the
vector, and the registers are `S - 3`, `P.I` set and `PC` from the vector (60_exceptions.md R314, R319). -/
def State.afterEntry (l : List Request) (vec : Word) (s : State) : State :=
  (s.perform (l ++ [.read vec, .read (vec + 1)])).mapCpu fun c =>
    { c with sp := spMinus s 3, p := { c.p with i := true }, pc := vectorWord l vec s }

/-- The accesses of an interrupt sequence up to its vector reads: two dummy reads at `PC`, then the pushes with bit 4
clear (60_exceptions.md R314). -/
def interruptPushes (s : State) : List Request :=
  [.read s.cpu.pc, .read s.cpu.pc] ++ entryPushes false s.cpu.pc s

/-- An interrupt sequence done (60_exceptions.md R314). -/
def State.afterInterrupt (vec : Word) (s : State) : State := s.afterEntry (interruptPushes s) vec

/-- The target of a taken branch, `PC` being on the offset byte: the address of the next instruction plus the signed
offset, modulo 65,536 (40_step_and_addressing.md R141, 44_control_flow.md R230). -/
def branchTarget (rel8 : Byte) (s : State) : Word := BitVec.ofInt 16 (s.cpu.pc.toNat + 1 + rel8.toInt)

/-- The accesses of a branch after the opcode fetch: the three lists of 40_step_and_addressing.md R141. -/
def branchRequests (cond : Bool) (rel8 : Byte) (s : State) : List Request :=
  let next := s.cpu.pc + 1
  let target := branchTarget rel8 s
  .read s.cpu.pc ::
    if cond then
      .read next :: if hiByte target = hiByte next then [] else [.read (word (hiByte next) (loByte target))]
    else []

/-- The eight formats of the `cc = 01` instructions with their opcodes `aaabbb01`, `base` being `aaa00000` (30_encoding.md
R96). -/
def readForms (base : Byte) (imm zp zpx : Byte → Instr) (abs absx absy : Word → Instr) (indx indy : Byte → Instr) :
    Source → Option (Byte × Instr)
  | .imm v => some (base + 0x09, imm v)
  | .mem (.zp z) => some (base + 0x05, zp z)
  | .mem (.zpx z) => some (base + 0x15, zpx z)
  | .mem (.zpy _) => none
  | .mem (.abs w) => some (base + 0x0D, abs w)
  | .mem (.absx w) => some (base + 0x1D, absx w)
  | .mem (.absy w) => some (base + 0x19, absy w)
  | .mem (.indx z) => some (base + 0x01, indx z)
  | .mem (.indy z) => some (base + 0x11, indy z)

/-- The forms of `LDA` (R170). -/
def ldaForm : Source → Option (Byte × Instr) :=
  readForms 0xA0 .ldaImm .ldaZp .ldaZpx .ldaAbs .ldaAbsx .ldaAbsy .ldaIndx .ldaIndy

/-- The forms of `ADC` (R191). -/
def adcForm : Source → Option (Byte × Instr) :=
  readForms 0x60 .adcImm .adcZp .adcZpx .adcAbs .adcAbsx .adcAbsy .adcIndx .adcIndy

/-- The forms of `SBC` (R193). -/
def sbcForm : Source → Option (Byte × Instr) :=
  readForms 0xE0 .sbcImm .sbcZp .sbcZpx .sbcAbs .sbcAbsx .sbcAbsy .sbcIndx .sbcIndy

/-- The forms of `AND` (R195). -/
def andForm : Source → Option (Byte × Instr) :=
  readForms 0x20 .andImm .andZp .andZpx .andAbs .andAbsx .andAbsy .andIndx .andIndy

/-- The forms of `ORA` (R196). -/
def oraForm : Source → Option (Byte × Instr) :=
  readForms 0x00 .oraImm .oraZp .oraZpx .oraAbs .oraAbsx .oraAbsy .oraIndx .oraIndy

/-- The forms of `EOR` (R197). -/
def eorForm : Source → Option (Byte × Instr) :=
  readForms 0x40 .eorImm .eorZp .eorZpx .eorAbs .eorAbsx .eorAbsy .eorIndx .eorIndy

/-- The forms of `CMP` (R198). -/
def cmpForm : Source → Option (Byte × Instr) :=
  readForms 0xC0 .cmpImm .cmpZp .cmpZpx .cmpAbs .cmpAbsx .cmpAbsy .cmpIndx .cmpIndy

/-- The forms of `LDX` (R171). -/
def ldxForm : Source → Option (Byte × Instr)
  | .imm v => some (0xA2, .ldxImm v)
  | .mem (.zp z) => some (0xA6, .ldxZp z)
  | .mem (.zpy z) => some (0xB6, .ldxZpy z)
  | .mem (.abs w) => some (0xAE, .ldxAbs w)
  | .mem (.absy w) => some (0xBE, .ldxAbsy w)
  | .mem (.zpx _) | .mem (.absx _) | .mem (.indx _) | .mem (.indy _) => none

/-- The forms of `LDY` (R172). -/
def ldyForm : Source → Option (Byte × Instr)
  | .imm v => some (0xA0, .ldyImm v)
  | .mem (.zp z) => some (0xA4, .ldyZp z)
  | .mem (.zpx z) => some (0xB4, .ldyZpx z)
  | .mem (.abs w) => some (0xAC, .ldyAbs w)
  | .mem (.absx w) => some (0xBC, .ldyAbsx w)
  | .mem (.zpy _) | .mem (.absy _) | .mem (.indx _) | .mem (.indy _) => none

/-- The forms of `CPX` (R199). -/
def cpxForm : Source → Option (Byte × Instr)
  | .imm v => some (0xE0, .cpxImm v)
  | .mem (.zp z) => some (0xE4, .cpxZp z)
  | .mem (.abs w) => some (0xEC, .cpxAbs w)
  | .mem (.zpx _) | .mem (.zpy _) | .mem (.absx _) | .mem (.absy _) | .mem (.indx _) | .mem (.indy _) => none

/-- The forms of `CPY` (R200). -/
def cpyForm : Source → Option (Byte × Instr)
  | .imm v => some (0xC0, .cpyImm v)
  | .mem (.zp z) => some (0xC4, .cpyZp z)
  | .mem (.abs w) => some (0xCC, .cpyAbs w)
  | .mem (.zpx _) | .mem (.zpy _) | .mem (.absx _) | .mem (.absy _) | .mem (.indx _) | .mem (.indy _) => none

/-- The forms of `BIT` (R201). -/
def bitForm : Source → Option (Byte × Instr)
  | .mem (.zp z) => some (0x24, .bitZp z)
  | .mem (.abs w) => some (0x2C, .bitAbs w)
  | .imm _ | .mem (.zpx _) | .mem (.zpy _) | .mem (.absx _) | .mem (.absy _) | .mem (.indx _) | .mem (.indy _) => none

/-- The forms of `STA` (R173). -/
def staForm : Mode → Option (Byte × Instr)
  | .zp z => some (0x85, .staZp z)
  | .zpx z => some (0x95, .staZpx z)
  | .abs w => some (0x8D, .staAbs w)
  | .absx w => some (0x9D, .staAbsx w)
  | .absy w => some (0x99, .staAbsy w)
  | .indx z => some (0x81, .staIndx z)
  | .indy z => some (0x91, .staIndy z)
  | .zpy _ => none

/-- The forms of `STX` (R174). -/
def stxForm : Mode → Option (Byte × Instr)
  | .zp z => some (0x86, .stxZp z)
  | .zpy z => some (0x96, .stxZpy z)
  | .abs w => some (0x8E, .stxAbs w)
  | .zpx _ | .absx _ | .absy _ | .indx _ | .indy _ => none

/-- The forms of `STY` (R175). -/
def styForm : Mode → Option (Byte × Instr)
  | .zp z => some (0x84, .styZp z)
  | .zpx z => some (0x94, .styZpx z)
  | .abs w => some (0x8C, .styAbs w)
  | .zpy _ | .absx _ | .absy _ | .indx _ | .indy _ => none

/-- The forms of `ASL` (R210). -/
def aslForm : Mode → Option (Byte × Instr)
  | .zp z => some (0x06, .aslZp z)
  | .zpx z => some (0x16, .aslZpx z)
  | .abs w => some (0x0E, .aslAbs w)
  | .absx w => some (0x1E, .aslAbsx w)
  | .zpy _ | .absy _ | .indx _ | .indy _ => none

/-- The forms of `LSR` (R211). -/
def lsrForm : Mode → Option (Byte × Instr)
  | .zp z => some (0x46, .lsrZp z)
  | .zpx z => some (0x56, .lsrZpx z)
  | .abs w => some (0x4E, .lsrAbs w)
  | .absx w => some (0x5E, .lsrAbsx w)
  | .zpy _ | .absy _ | .indx _ | .indy _ => none

/-- The forms of `ROL` (R212). -/
def rolForm : Mode → Option (Byte × Instr)
  | .zp z => some (0x26, .rolZp z)
  | .zpx z => some (0x36, .rolZpx z)
  | .abs w => some (0x2E, .rolAbs w)
  | .absx w => some (0x3E, .rolAbsx w)
  | .zpy _ | .absy _ | .indx _ | .indy _ => none

/-- The forms of `ROR` (R213). -/
def rorForm : Mode → Option (Byte × Instr)
  | .zp z => some (0x66, .rorZp z)
  | .zpx z => some (0x76, .rorZpx z)
  | .abs w => some (0x6E, .rorAbs w)
  | .absx w => some (0x7E, .rorAbsx w)
  | .zpy _ | .absy _ | .indx _ | .indy _ => none

/-- The forms of `INC` (R214). -/
def incForm : Mode → Option (Byte × Instr)
  | .zp z => some (0xE6, .incZp z)
  | .zpx z => some (0xF6, .incZpx z)
  | .abs w => some (0xEE, .incAbs w)
  | .absx w => some (0xFE, .incAbsx w)
  | .zpy _ | .absy _ | .indx _ | .indy _ => none

/-- The forms of `DEC` (R215). -/
def decForm : Mode → Option (Byte × Instr)
  | .zp z => some (0xC6, .decZp z)
  | .zpx z => some (0xD6, .decZpx z)
  | .abs w => some (0xCE, .decAbs w)
  | .absx w => some (0xDE, .decAbsx w)
  | .zpy _ | .absy _ | .indx _ | .indy _ => none

/-- The forms that store to their memory operand: the write and the read-modify-write class (40_step_and_addressing.md
R143). -/
def storeForms : List (Mode → Option (Byte × Instr)) :=
  [staForm, stxForm, styForm, aslForm, lsrForm, rolForm, rorForm, incForm, decForm]

/-- The flags an instruction may write (10_state.md R31): a line of the table with its marks. -/
structure FlagMask where
  n : Bool
  v : Bool
  d : Bool
  i : Bool
  z : Bool
  c : Bool
  deriving DecidableEq, Repr

/-- The mnemonics of the opcode table (30_encoding.md R95), and `jam` for the rows `JAM` (46_undefined_opcodes.md R270). -/
inductive Mnemonic where
  | lda | ldx | ldy | sta | stx | sty | tax | tay | txa | tya | tsx | txs | adc | sbc | and | ora | eor
  | cmp | cpx | cpy | bit | asl | lsr | rol | ror | inc | dec | inx | iny | dex | dey | jmp | jsr | rts
  | bcc | bcs | beq | bne | bmi | bpl | bvc | bvs | brk | rti | pha | php | pla | plp | clc | sec | cli
  | sei | cld | sed | clv | nop | jam
  deriving DecidableEq, Repr

/-- The mnemonic of an instruction. -/
def mnemonicOf : Instr → Mnemonic
  | .ldaImm _ | .ldaZp _ | .ldaZpx _ | .ldaAbs _ | .ldaAbsx _ | .ldaAbsy _ | .ldaIndx _ | .ldaIndy _ => .lda
  | .ldxImm _ | .ldxZp _ | .ldxZpy _ | .ldxAbs _ | .ldxAbsy _ => .ldx
  | .ldyImm _ | .ldyZp _ | .ldyZpx _ | .ldyAbs _ | .ldyAbsx _ => .ldy
  | .staZp _ | .staZpx _ | .staAbs _ | .staAbsx _ | .staAbsy _ | .staIndx _ | .staIndy _ => .sta
  | .stxZp _ | .stxZpy _ | .stxAbs _ => .stx
  | .styZp _ | .styZpx _ | .styAbs _ => .sty
  | .tax => .tax
  | .tay => .tay
  | .txa => .txa
  | .tya => .tya
  | .tsx => .tsx
  | .txs => .txs
  | .adcImm _ | .adcZp _ | .adcZpx _ | .adcAbs _ | .adcAbsx _ | .adcAbsy _ | .adcIndx _ | .adcIndy _ => .adc
  | .sbcImm _ | .sbcZp _ | .sbcZpx _ | .sbcAbs _ | .sbcAbsx _ | .sbcAbsy _ | .sbcIndx _ | .sbcIndy _ => .sbc
  | .andImm _ | .andZp _ | .andZpx _ | .andAbs _ | .andAbsx _ | .andAbsy _ | .andIndx _ | .andIndy _ => .and
  | .oraImm _ | .oraZp _ | .oraZpx _ | .oraAbs _ | .oraAbsx _ | .oraAbsy _ | .oraIndx _ | .oraIndy _ => .ora
  | .eorImm _ | .eorZp _ | .eorZpx _ | .eorAbs _ | .eorAbsx _ | .eorAbsy _ | .eorIndx _ | .eorIndy _ => .eor
  | .cmpImm _ | .cmpZp _ | .cmpZpx _ | .cmpAbs _ | .cmpAbsx _ | .cmpAbsy _ | .cmpIndx _ | .cmpIndy _ => .cmp
  | .cpxImm _ | .cpxZp _ | .cpxAbs _ => .cpx
  | .cpyImm _ | .cpyZp _ | .cpyAbs _ => .cpy
  | .bitZp _ | .bitAbs _ => .bit
  | .aslAcc | .aslZp _ | .aslZpx _ | .aslAbs _ | .aslAbsx _ => .asl
  | .lsrAcc | .lsrZp _ | .lsrZpx _ | .lsrAbs _ | .lsrAbsx _ => .lsr
  | .rolAcc | .rolZp _ | .rolZpx _ | .rolAbs _ | .rolAbsx _ => .rol
  | .rorAcc | .rorZp _ | .rorZpx _ | .rorAbs _ | .rorAbsx _ => .ror
  | .incZp _ | .incZpx _ | .incAbs _ | .incAbsx _ => .inc
  | .decZp _ | .decZpx _ | .decAbs _ | .decAbsx _ => .dec
  | .inx => .inx
  | .iny => .iny
  | .dex => .dex
  | .dey => .dey
  | .jmpAbs _ | .jmpInd _ => .jmp
  | .jsr _ => .jsr
  | .rts => .rts
  | .bcc _ => .bcc
  | .bcs _ => .bcs
  | .beq _ => .beq
  | .bne _ => .bne
  | .bmi _ => .bmi
  | .bpl _ => .bpl
  | .bvc _ => .bvc
  | .bvs _ => .bvs
  | .brk => .brk
  | .rti => .rti
  | .pha => .pha
  | .php => .php
  | .pla => .pla
  | .plp => .plp
  | .clc => .clc
  | .sec => .sec
  | .cli => .cli
  | .sei => .sei
  | .cld => .cld
  | .sed => .sed
  | .clv => .clv
  | .nop => .nop
  | .jam _ => .jam

/-- The accumulator forms of the shifts (40_step_and_addressing.md R131). -/
def isAccumulator : Instr → Bool
  | .aslAcc | .lsrAcc | .rolAcc | .rorAcc => true
  | _ => false

/-- The flag table of 10_state.md R31, line by line: which flags the instruction may write. `P.B` is in no line. -/
def flagMask : Mnemonic → FlagMask
  | .lda | .ldx | .ldy | .tax | .tay | .txa | .tya | .tsx | .pla | .and | .ora | .eor | .inc | .dec | .inx | .iny
  | .dex | .dey => ⟨true, false, false, false, true, false⟩
  | .adc | .sbc => ⟨true, true, false, false, true, true⟩
  | .cmp | .cpx | .cpy => ⟨true, false, false, false, true, true⟩
  | .bit => ⟨true, true, false, false, true, false⟩
  | .asl | .rol | .lsr | .ror => ⟨true, false, false, false, true, true⟩
  | .clc | .sec => ⟨false, false, false, false, false, true⟩
  | .cld | .sed => ⟨false, false, true, false, false, false⟩
  | .cli | .sei => ⟨false, false, false, true, false, false⟩
  | .clv => ⟨false, true, false, false, false, false⟩
  | .plp | .rti => ⟨true, true, true, true, true, true⟩
  | .brk => ⟨false, false, false, true, false, false⟩
  | .sta | .stx | .sty | .txs | .pha | .php | .jmp | .jsr | .rts | .nop | .bcc | .bcs | .beq | .bne | .bmi | .bpl
  | .bvc | .bvs | .jam => ⟨false, false, false, false, false, false⟩

/-- The row of an instruction: that of its opcode byte; none for `jam`. -/
def instrRow (i : Instr) : Option Row := ((encode i).head?).bind opcodeRow

/-- The class of the table's rows that write memory: stores, read-modify-writes, pushes, `JSR`, `BRK`
(40_step_and_addressing.md R143; 44_control_flow.md; 45_stack_flags_nop.md). -/
def storesToMemory (i : Instr) : Bool :=
  match mnemonicOf i with
  | .sta | .stx | .sty | .inc | .dec | .pha | .php | .jsr | .brk => true
  | .asl | .lsr | .rol | .ror => !isAccumulator i
  | .lda | .ldx | .ldy | .tax | .tay | .txa | .tya | .tsx | .txs | .adc | .sbc | .and | .ora | .eor | .cmp | .cpx
  | .cpy | .bit | .inx | .iny | .dex | .dey | .jmp | .rts | .bcc | .bcs | .beq | .bne | .bmi | .bpl | .bvc | .bvs
  | .rti | .pla | .plp | .clc | .sec | .cli | .sei | .cld | .sed | .clv | .nop | .jam => false

/-- The registers an instruction may write (10_state.md R21 to R23 and the instruction rules). -/
structure RegisterMask where
  a : Bool
  x : Bool
  y : Bool
  sp : Bool
  deriving DecidableEq, Repr

/-- The registers each instruction may write: its destination, and `S` for those that push or pull. -/
def registerMask (i : Instr) : RegisterMask :=
  match mnemonicOf i with
  | .lda | .txa | .tya | .adc | .sbc | .and | .ora | .eor => ⟨true, false, false, false⟩
  | .asl | .lsr | .rol | .ror => ⟨isAccumulator i, false, false, false⟩
  | .ldx | .tax | .tsx | .inx | .dex => ⟨false, true, false, false⟩
  | .ldy | .tay | .iny | .dey => ⟨false, false, true, false⟩
  | .pla => ⟨true, false, false, true⟩
  | .txs | .pha | .php | .plp | .jsr | .rts | .brk | .rti => ⟨false, false, false, true⟩
  | .sta | .stx | .sty | .cmp | .cpx | .cpy | .bit | .inc | .dec | .jmp | .bcc | .bcs | .beq | .bne | .bmi | .bpl
  | .bvc | .bvs | .clc | .sec | .cli | .sei | .cld | .sed | .clv | .nop | .jam => ⟨false, false, false, false⟩

/-- The instructions that write `PC` themselves (10_state.md R25, 44_control_flow.md), and the jam. -/
def transfersControl (i : Instr) : Bool :=
  match mnemonicOf i with
  | .jmp | .jsr | .rts | .brk | .rti | .bcc | .bcs | .beq | .bne | .bmi | .bpl | .bvc | .bvs | .jam => true
  | .lda | .ldx | .ldy | .sta | .stx | .sty | .tax | .tay | .txa | .tya | .tsx | .txs | .adc | .sbc | .and | .ora
  | .eor | .cmp | .cpx | .cpy | .bit | .asl | .lsr | .rol | .ror | .inc | .dec | .inx | .iny | .dex | .dey | .pha
  | .php | .pla | .plp | .clc | .sec | .cli | .sei | .cld | .sed | .clv | .nop => false

/-- `cond` of the eight branches (44_control_flow.md R235 to R242); none for any other instruction. -/
def branchTaken (i : Instr) (p : Flags) : Option (Bool × Byte) :=
  match i with
  | .bcc r => some (!p.c, r)
  | .bcs r => some (p.c, r)
  | .beq r => some (p.z, r)
  | .bne r => some (!p.z, r)
  | .bmi r => some (p.n, r)
  | .bpl r => some (!p.n, r)
  | .bvc r => some (!p.v, r)
  | .bvs r => some (p.v, r)
  | _ => none

/-- The memory operand of the rows marked `+p` (30_encoding.md R95, 40_step_and_addressing.md R151); none for any other
instruction. -/
def pageRowMode (i : Instr) : Option Mode :=
  match i with
  | .ldaAbsx w | .ldyAbsx w | .adcAbsx w | .sbcAbsx w | .andAbsx w | .oraAbsx w
  | .eorAbsx w | .cmpAbsx w => some (.absx w)
  | .ldaAbsy w | .ldxAbsy w | .adcAbsy w | .sbcAbsy w | .andAbsy w | .oraAbsy w
  | .eorAbsy w | .cmpAbsy w => some (.absy w)
  | .ldaIndy z | .adcIndy z | .sbcIndy z | .andIndy z | .oraIndy z | .eorIndy z
  | .cmpIndy z => some (.indy z)
  | _ => none

/-- The extra cycles of 40_step_and_addressing.md R151, `s` being the state after the opcode fetch. -/
def extraCost (i : Instr) (s : State) : Nat :=
  match branchTaken i s.cpu.p, pageRowMode i with
  | some (true, r), _ => if hiByte (branchTarget r s) = hiByte (s.cpu.pc + 1) then 1 else 2
  | some (false, _), _ => 0
  | none, some m => if pageCrossed m s then 1 else 0
  | none, none => 0

/-- The documented cost of an instruction: the table's base count plus the extra that applies (40_step_and_addressing.md
R151); a jam costs its opcode fetch (R150). -/
def documentedCost (i : Instr) (s : State) : Nat := (instrRow i).elim 1 Row.cycles + extraCost i s

/-- From `s` to `t` every write that was issued went to one of these addresses, and every other byte of memory is as
before: read behind the bus, and read through it where no device answers. The map of the bus is as before. -/
def WroteOnly (addresses : List Word) (s t : State) : Prop :=
  (∃ l, t.trace = s.trace ++ l ∧ ∀ x ∈ l, x.kind = .write → x.address ∈ addresses) ∧
  t.bus.regions = s.bus.regions ∧
  ∀ a, a ∉ addresses → t.bus.mem.read a = s.bus.mem.read a ∧
    (s.bus.target a ≠ .device → peek t.bus a = peek s.bus a)

/-- The latches and tables that the debugger, the interrupt detector and the observer keep between steps, and the inputs:
what no instruction touches. -/
def untouched (s t : State) : Prop :=
  t.nmiPrev = s.nmiPrev ∧ t.nmiPending = s.nmiPending ∧ t.bpSkip = s.bpSkip ∧ t.bps = s.bps ∧ t.wps = s.wps ∧
    t.irqLine = s.irqLine ∧ t.nmiLine = s.nmiLine ∧ t.outcome = s.outcome ∧ t.stepArmed = s.stepArmed

/-- The invariant of the machine: the bytes behind the bus, both tables and the observer's record are in canonical form
(at most one entry a key, 10_state.md R39 (e)) and `P.B` is 1 (R39 (b)). -/
abbrev Inv (s : State) : Prop :=
  s.bus.mem.wf ∧ Keyed breakKey s.bps ∧ Keyed watchKey s.wps ∧ Keyed BitVec.toNat s.stepArmed ∧ s.cpu.p.b = true

/-- The step of this state reaches the fetch stage: not jammed, no NMI pending or arriving, no unmasked IRQ
(40_step_and_addressing.md R121 lines 1 to 11, R123). -/
abbrev ReachesFetch (s : State) : Prop :=
  s.cpu.jammed = false ∧ s.nmiPending = false ∧ (s.nmiLine && !s.nmiPrev) = false ∧ (s.irqLine && !s.cpu.p.i) = false

/-- No breakpoint stops the fetch at `PC`: bypassed, absent or disabled (40_step_and_addressing.md R121 lines 12 to 19;
49_debugger.md R282, R285). -/
abbrev NoBreakpoint (s : State) : Prop :=
  s.bpSkip = some s.cpu.pc ∨ ((breakpointAt s.bps s.cpu.pc).filter (·.enabled)) = none

/-- The state in which a step that reaches the fetch stage puts the opcode read on the bus: the line is sampled, the
bypass is used up, the records of the last step are put away (40_step_and_addressing.md R121 lines 2 to 19). -/
def State.atFetch (s : State) : State :=
  { s with nmiPrev := s.nmiLine, bpSkip := none, watchHit := none, trace := [] }

/-- The state after the opcode fetch (40_step_and_addressing.md R121 line 21): the state `exec` starts from. -/
def State.fetched (s : State) : State :=
  (s.atFetch.perform [.read s.cpu.pc]).mapCpu fun c => { c with pc := c.pc + 1 }

/-- The state in which a step that takes an interrupt begins its sequence (40_step_and_addressing.md R121 lines 2 to 10).
-/
def State.atInterrupt (s : State) : State :=
  { s with nmiPrev := s.nmiLine, nmiPending := false, watchHit := none, trace := [] }

/-- The NMI is pending, or arrives with this step's sample (60_exceptions.md R311, R313). -/
abbrev NmiDue (s : State) : Prop := (s.nmiPending || (s.nmiLine && !s.nmiPrev)) = true

/-- The same state with another cycle count (40_step_and_addressing.md R152). -/
def State.withCycles (n : Nat) (s : State) : State := { s with cycles := n }

/-- The same state with another value of `P.B` (10_state.md R27). -/
def State.withBreakFlag (b : Bool) (s : State) : State := s.mapCpu fun c => { c with p := { c.p with b := b } }

/-- The value of a byte as two decimal digits. -/
def bcdValue (v : Byte) : Nat := v.toNat / 16 * 10 + v.toNat % 16

/-- Both digits of a byte are decimal digits (42_arithmetic_logic.md R192). -/
abbrev ValidBcd (v : Byte) : Prop := v.toNat / 16 ≤ 9 ∧ v.toNat % 16 ≤ 9

/-- The calls that may end a jam: `reset` and `loadSnapshot` (60_exceptions.md R327). -/
def HostCall.endsJam : HostCall → Bool
  | .reset | .loadSnapshot _ => true
  | .step | .setBreakpoint _ _ | .clearBreakpoint _ | .setWatchpoint _ _ | .clearWatchpoint _ _
  | .enableBreakpoint _ _ | .enableWatchpoint _ _ _ | .singleStep | .captureSnapshot | .configure _ _ | .setLines _ _
  | .setBytes _ | .setMap _ | .deviceChange _ => false

end Sys2Proof.Machine
end

