-- ==== Sys2Proof/Certificates/Slice0/Obligations.lean ====
section
/-! DEFINITION. The statements for the provers. An `exec` statement is about the state after the opcode fetch (`PC` is
the address of the opcode plus 1, 40_step_and_addressing.md R121 line 21); `StepRunsDecodedInstruction` joins it to a step.
Every byte that an instruction reads is what the bus of that state answers to the requests made so far (`State.answer`,
`peek`), so each statement holds for every map of the bus and whatever its devices answer (20_memory.md R61; log 1). -/

open Sys2Proof Sys2Proof.Machine

/-- Words written out from 30_encoding.md R94, R95 and the examples of R100, at least one a family. -/
def Obligations.DecodeGivesListedWords : Prop :=
  decode [0xA9, 0x42] = .ok (.ldaImm 0x42, []) ∧
  decode [0xB6, 0x10] = .ok (.ldxZpy 0x10, []) ∧
  decode [0x8D, 0x20, 0xD0] = .ok (.staAbs 0xD020, []) ∧
  decode [0x9A] = .ok (.txs, []) ∧
  decode [0xB1, 0x20] = .ok (.ldaIndy 0x20, []) ∧
  decode [0x7D, 0x34, 0x12] = .ok (.adcAbsx 0x1234, []) ∧
  decode [0xE9, 0x01] = .ok (.sbcImm 0x01, []) ∧
  decode [0x24, 0x10] = .ok (.bitZp 0x10, []) ∧
  decode [0x0A] = .ok (.aslAcc, []) ∧
  decode [0xFE, 0x00, 0x02] = .ok (.incAbsx 0x0200, []) ∧
  decode [0x6C, 0xFC, 0xFF] = .ok (.jmpInd 0xFFFC, []) ∧
  decode [0x20, 0x00, 0x07] = .ok (.jsr 0x0700, []) ∧
  decode [0xD0, 0x03] = .ok (.bne 0x03, []) ∧
  decode [0x00] = .ok (.brk, []) ∧
  decode [0x28] = .ok (.plp, []) ∧
  decode [0xEA, 0x18] = .ok (.nop, [0x18]) ∧
  decode [0x02, 0xFF] = .ok (.jam 0x02, [0xFF])

/-- Decoding the encoding of a well-formed instruction gives it back, whatever bytes follow. -/
def Obligations.DecodeAfterEncodeIsIdentity : Prop :=
  ∀ (i : Instr) (rest : List Byte), i.wellFormed = true → decode (encode i ++ rest) = .ok (i, rest)

/-- What the decoder accepts is the encoding of a well-formed instruction followed by the bytes it leaves. -/
def Obligations.EncodeAfterDecodeIsIdentity : Prop :=
  ∀ (bytes rest : List Byte) (i : Instr), decode bytes = .ok (i, rest) →
    i.wellFormed = true ∧ bytes = encode i ++ rest

/-- 30_encoding.md R99, R97, R92: every opcode value has one row or is one of the 105 undefined values; the instruction's
opcode byte is that value and its length does not depend on the operand bytes. -/
def Obligations.DecoderIsTotalByOpcode : Prop :=
  ∀ opcode byte1 byte2 : Byte,
    (opcodeTable.filter fun r => r.opcode == opcode).length = (if opcode ∈ undefinedOpcodes then 0 else 1) ∧
    (decodeBytes opcode byte1 byte2).wellFormed = true ∧
    encode (decodeBytes opcode byte1 byte2) = [opcode, byte1, byte2].take (instrLength opcode) ∧
    ((∃ o, decodeBytes opcode byte1 byte2 = .jam o) ↔ opcode ∈ undefinedOpcodes) ∧
    (opcode ∈ undefinedOpcodes → instrLength opcode = 1)

/-- 40_step_and_addressing.md R132 to R140 and R144 to R146: the address a format resolves to, with its accesses, and
what each operand class does with it. -/
def Obligations.OperandAccess : Prop :=
  ∀ (s : State) (m : Mode) (src : Source) (v : Byte) (f : Byte → Flags → Byte × Flags),
    m.resolve s = (⟨effectiveAddress m s, earlyAddress m s, pageCrossed m s⟩,
      (s.perform (addressRequests m s)).mapCpu fun c => { c with pc := c.pc + BitVec.ofNat 16 m.bytes.length }) ∧
    (∀ e, earlyAddress m s = some e → (e = effectiveAddress m s ↔ pageCrossed m s = false)) ∧
    loadOperand src s = (operandByte src s, s.afterRead src fun _ c => c) ∧
    storeOperand m v s = s.afterStore m v ∧
    modifyOperand m f s =
      s.afterModify m (f (modifiedByte m s) s.cpu.p).1 (f (modifiedByte m s) s.cpu.p).2 ∧
    modifyAccumulator f s =
      s.afterImplied { s.cpu with a := (f s.cpu.a s.cpu.p).1, p := (f s.cpu.a s.cpu.p).2 }

/-- 41_load_store_transfer.md R170 to R172. -/
def Obligations.LoadsSetARegister : Prop :=
  ∀ (s : State) (src : Source) (op : Byte) (i : Instr),
    (ldaForm src = some (op, i) → encode i = op :: src.bytes ∧
      exec i s = .next (s.afterRead src fun v c => { c with a := v, p := withZN v c.p })) ∧
    (ldxForm src = some (op, i) → encode i = op :: src.bytes ∧
      exec i s = .next (s.afterRead src fun v c => { c with x := v, p := withZN v c.p })) ∧
    (ldyForm src = some (op, i) → encode i = op :: src.bytes ∧
      exec i s = .next (s.afterRead src fun v c => { c with y := v, p := withZN v c.p }))

/-- 41_load_store_transfer.md R173 to R175: the accesses of the write class, no flag; and RAM there answers the byte. -/
def Obligations.StoresWriteARegister : Prop :=
  ∀ (s : State) (m : Mode) (op : Byte) (i : Instr),
    let holds := fun (t : State) (v : Byte) =>
      s.bus.target (effectiveAddress m s) = .ram → peek t.bus (effectiveAddress m s) = v
    (staForm m = some (op, i) → encode i = op :: m.bytes ∧ exec i s = .next (s.afterStore m s.cpu.a) ∧
      holds (s.afterStore m s.cpu.a) s.cpu.a) ∧
    (stxForm m = some (op, i) → encode i = op :: m.bytes ∧ exec i s = .next (s.afterStore m s.cpu.x) ∧
      holds (s.afterStore m s.cpu.x) s.cpu.x) ∧
    (styForm m = some (op, i) → encode i = op :: m.bytes ∧ exec i s = .next (s.afterStore m s.cpu.y) ∧
      holds (s.afterStore m s.cpu.y) s.cpu.y)

/-- 41_load_store_transfer.md R176 to R181, 43_shift_incdec.md R216 to R219. -/
def Obligations.TransfersAndIndexCounts : Prop :=
  ∀ (s : State) (op : Byte) (i : Instr) (c : ProcessorState),
    let up := fun (v : Byte) => BitVec.ofNat 8 (v.toNat + 1)
    let down := fun (v : Byte) => BitVec.ofNat 8 (v.toNat + 255)
    (op, i, c) ∈ [
      (0xAA, Instr.tax, { s.cpu with x := s.cpu.a, p := withZN s.cpu.a s.cpu.p }),
      (0xA8, Instr.tay, { s.cpu with y := s.cpu.a, p := withZN s.cpu.a s.cpu.p }),
      (0x8A, Instr.txa, { s.cpu with a := s.cpu.x, p := withZN s.cpu.x s.cpu.p }),
      (0x98, Instr.tya, { s.cpu with a := s.cpu.y, p := withZN s.cpu.y s.cpu.p }),
      (0xBA, Instr.tsx, { s.cpu with x := s.cpu.sp, p := withZN s.cpu.sp s.cpu.p }),
      (0x9A, Instr.txs, { s.cpu with sp := s.cpu.x }),
      (0xE8, Instr.inx, { s.cpu with x := up s.cpu.x, p := withZN (up s.cpu.x) s.cpu.p }),
      (0xC8, Instr.iny, { s.cpu with y := up s.cpu.y, p := withZN (up s.cpu.y) s.cpu.p }),
      (0xCA, Instr.dex, { s.cpu with x := down s.cpu.x, p := withZN (down s.cpu.x) s.cpu.p }),
      (0x88, Instr.dey, { s.cpu with y := down s.cpu.y, p := withZN (down s.cpu.y) s.cpu.p })] →
    encode i = [op] ∧ exec i s = .next (s.afterImplied c)

/-- 42_arithmetic_logic.md R191, R192. In binary mode `V` says that the signed sum lies outside -128 .. 127; in decimal
mode `Z` is that of the binary sum, and `N` and `V` are those of `t`, before the high digit is corrected. -/
def Obligations.AdcAddsWithCarry : Prop :=
  ∀ (s : State) (src : Source) (op : Byte) (i : Instr), adcForm src = some (op, i) →
    let a := s.cpu.a.toNat
    let m := (operandByte src s).toNat
    let c := s.cpu.p.c.toNat
    let signed := s.cpu.a.toInt + (operandByte src s).toInt + c
    let low := a % 16 + m % 16 + c
    let al := if 10 ≤ low then (low + 6) % 16 + 16 else low
    let t := a / 16 * 16 + m / 16 * 16 + al
    let u := if 160 ≤ t then t + 96 else t
    encode i = op :: src.bytes ∧
    (s.cpu.p.d = false → exec i s = .next (s.afterRead src fun _ r =>
      { r with
        a := BitVec.ofNat 8 (a + m + c)
        p := { r.p with
          n := decide (128 ≤ (a + m + c) % 256)
          v := decide (¬ (-128 ≤ signed ∧ signed ≤ 127))
          z := decide ((a + m + c) % 256 = 0)
          c := decide (256 ≤ a + m + c) } })) ∧
    (s.cpu.p.d = true → exec i s = .next (s.afterRead src fun _ r =>
      { r with
        a := BitVec.ofNat 8 u
        p := { r.p with
          n := decide (128 ≤ t % 256)
          v := decide (a / 128 = m / 128 ∧ t / 128 % 2 ≠ a / 128)
          z := decide ((a + m + c) % 256 = 0)
          c := decide (256 ≤ u) } }))

/-- 42_arithmetic_logic.md R193, R194: the flags are those of the binary difference in both modes; in decimal mode only
`A` is decimal-corrected; in binary mode `SBC m` is `ADC (m ^ 0xFF)`. -/
def Obligations.SbcSubtractsWithBorrow : Prop :=
  ∀ (s : State) (src : Source) (op : Byte) (i : Instr), sbcForm src = some (op, i) →
    let a := s.cpu.a.toNat
    let m := (operandByte src s).toNat
    let borrow : Int := 1 - s.cpu.p.c.toNat
    let d : Int := a - m - borrow
    let signed := s.cpu.a.toInt - (operandByte src s).toInt - borrow
    let low : Int := ((a % 16 : Nat) : Int) - ((m % 16 : Nat) : Int) - borrow
    let al := if low < 0 then (low - 6) % 16 - 16 else low
    let t : Int := ((a / 16 * 16 : Nat) : Int) - ((m / 16 * 16 : Nat) : Int) + al
    encode i = op :: src.bytes ∧
    exec i s = .next (s.afterRead src fun _ r =>
      { r with
        a := if s.cpu.p.d then BitVec.ofInt 8 (if t < 0 then t - 96 else t) else BitVec.ofInt 8 d
        p := { r.p with
          n := decide (128 ≤ d % 256)
          v := decide (¬ (-128 ≤ signed ∧ signed ≤ 127))
          z := decide (d % 256 = 0)
          c := decide (0 ≤ d) } }) ∧
    (s.cpu.p.d = false → exec i s = .next (s.afterRead src fun v r =>
      { r with a := (adcResult r.a (v ^^^ 0xFF) r.p).1, p := (adcResult r.a (v ^^^ 0xFF) r.p).2 }))

/-- 42_arithmetic_logic.md R192, R194: on valid decimal operands the result is the decimal sum or difference, and `C` its
carry or no-borrow. -/
def Obligations.DecimalArithmeticIsExactOnBcd : Prop :=
  ∀ (a m : Byte) (p : Flags), p.d = true → ValidBcd a → ValidBcd m →
    (ValidBcd (adcResult a m p).1 ∧
      bcdValue (adcResult a m p).1 = (bcdValue a + bcdValue m + p.c.toNat) % 100 ∧
      (adcResult a m p).2.c = decide (100 ≤ bcdValue a + bcdValue m + p.c.toNat)) ∧
    (ValidBcd (sbcResult a m p).1 ∧
      bcdValue (sbcResult a m p).1 = (bcdValue a + 100 - bcdValue m - (1 - p.c.toNat)) % 100 ∧
      (sbcResult a m p).2.c = decide (bcdValue m + (1 - p.c.toNat) ≤ bcdValue a))

/-- 42_arithmetic_logic.md R195 to R197. -/
def Obligations.LogicInstructionsCombineBits : Prop :=
  ∀ (s : State) (src : Source) (op : Byte) (i : Instr),
    (andForm src = some (op, i) → encode i = op :: src.bytes ∧
      exec i s = .next (s.afterRead src fun v c => { c with a := c.a &&& v, p := withZN (c.a &&& v) c.p })) ∧
    (oraForm src = some (op, i) → encode i = op :: src.bytes ∧
      exec i s = .next (s.afterRead src fun v c => { c with a := c.a ||| v, p := withZN (c.a ||| v) c.p })) ∧
    (eorForm src = some (op, i) → encode i = op :: src.bytes ∧
      exec i s = .next (s.afterRead src fun v c => { c with a := c.a ^^^ v, p := withZN (c.a ^^^ v) c.p }))

/-- 42_arithmetic_logic.md R198 to R200: an unsigned comparison; no register and no `V` is written. -/
def Obligations.ComparesSetCZN : Prop :=
  ∀ (s : State) (src : Source) (op : Byte) (i : Instr),
    let compared := fun (r : Byte) (v : Byte) (c : ProcessorState) => { c with p := { c.p with
      c := decide (v.toNat ≤ r.toNat)
      z := decide (r.toNat = v.toNat)
      n := decide (128 ≤ (r.toNat + 256 - v.toNat) % 256) } }
    (cmpForm src = some (op, i) → encode i = op :: src.bytes ∧
      exec i s = .next (s.afterRead src (compared s.cpu.a))) ∧
    (cpxForm src = some (op, i) → encode i = op :: src.bytes ∧
      exec i s = .next (s.afterRead src (compared s.cpu.x))) ∧
    (cpyForm src = some (op, i) → encode i = op :: src.bytes ∧
      exec i s = .next (s.afterRead src (compared s.cpu.y)))

/-- 42_arithmetic_logic.md R201. -/
def Obligations.BitTestsMemory : Prop :=
  ∀ (s : State) (src : Source) (op : Byte) (i : Instr), bitForm src = some (op, i) → encode i = op :: src.bytes ∧
    exec i s = .next (s.afterRead src fun v c => { c with p := { c.p with
      z := decide ((c.a &&& v).toNat = 0)
      n := decide (128 ≤ v.toNat)
      v := decide (64 ≤ v.toNat % 128) } })

/-- 43_shift_incdec.md R210, R211, R214, R215: `ASL`, `LSR`, `INC`, `DEC` on memory, `ASL`, `LSR` on `A`. -/
def Obligations.ShiftsAndCounts : Prop :=
  ∀ (s : State),
    let asl := fun (v : Byte) => (BitVec.ofNat 8 (v.toNat * 2), { s.cpu.p with
      c := decide (128 ≤ v.toNat), z := decide (v.toNat % 128 = 0), n := decide (64 ≤ v.toNat % 128) })
    let lsr := fun (v : Byte) => (BitVec.ofNat 8 (v.toNat / 2), { s.cpu.p with
      c := decide (v.toNat % 2 = 1), z := decide (v.toNat < 2), n := false })
    (∀ (m : Mode) (op : Byte) (i : Instr),
      let v := modifiedByte m s
      (aslForm m = some (op, i) → encode i = op :: m.bytes ∧
        exec i s = .next (s.afterModify m (asl v).1 (asl v).2)) ∧
      (lsrForm m = some (op, i) → encode i = op :: m.bytes ∧
        exec i s = .next (s.afterModify m (lsr v).1 (lsr v).2)) ∧
      (incForm m = some (op, i) → encode i = op :: m.bytes ∧
        exec i s = .next (s.afterModify m (BitVec.ofNat 8 (v.toNat + 1))
          (withZN (BitVec.ofNat 8 (v.toNat + 1)) s.cpu.p))) ∧
      (decForm m = some (op, i) → encode i = op :: m.bytes ∧
        exec i s = .next (s.afterModify m (BitVec.ofNat 8 (v.toNat + 255))
          (withZN (BitVec.ofNat 8 (v.toNat + 255)) s.cpu.p)))) ∧
    encode .aslAcc = [0x0A] ∧
    exec .aslAcc s = .next (s.afterImplied { s.cpu with a := (asl s.cpu.a).1, p := (asl s.cpu.a).2 }) ∧
    encode .lsrAcc = [0x4A] ∧
    exec .lsrAcc s = .next (s.afterImplied { s.cpu with a := (lsr s.cpu.a).1, p := (lsr s.cpu.a).2 })

/-- 43_shift_incdec.md R212, R213: rotations of nine bits, the carry being the ninth. -/
def Obligations.RotatesGoThroughCarry : Prop :=
  ∀ (s : State),
    let c := s.cpu.p.c.toNat
    let rol := fun (v : Byte) => (BitVec.ofNat 8 (v.toNat * 2 + c), { s.cpu.p with
      c := decide (128 ≤ v.toNat), z := decide (v.toNat % 128 = 0 ∧ c = 0), n := decide (64 ≤ v.toNat % 128) })
    let ror := fun (v : Byte) => (BitVec.ofNat 8 (v.toNat / 2 + 128 * c), { s.cpu.p with
      c := decide (v.toNat % 2 = 1), z := decide (v.toNat < 2 ∧ c = 0), n := s.cpu.p.c })
    (∀ (m : Mode) (op : Byte) (i : Instr),
      let v := modifiedByte m s
      (rolForm m = some (op, i) → encode i = op :: m.bytes ∧
        exec i s = .next (s.afterModify m (rol v).1 (rol v).2)) ∧
      (rorForm m = some (op, i) → encode i = op :: m.bytes ∧
        exec i s = .next (s.afterModify m (ror v).1 (ror v).2))) ∧
    encode .rolAcc = [0x2A] ∧
    exec .rolAcc s = .next (s.afterImplied { s.cpu with a := (rol s.cpu.a).1, p := (rol s.cpu.a).2 }) ∧
    encode .rorAcc = [0x6A] ∧
    exec .rorAcc s = .next (s.afterImplied { s.cpu with a := (ror s.cpu.a).1, p := (ror s.cpu.a).2 })

/-- 44_control_flow.md R230, R235 to R242, 40_step_and_addressing.md R141. -/
def Obligations.BranchesFollowTheirFlag : Prop :=
  ∀ (s : State) (rel8 op : Byte) (i : Instr) (cond : Bool),
    (op, i, cond) ∈ [
      (0x90, Instr.bcc rel8, !s.cpu.p.c), (0xB0, Instr.bcs rel8, s.cpu.p.c),
      (0xF0, Instr.beq rel8, s.cpu.p.z), (0xD0, Instr.bne rel8, !s.cpu.p.z),
      (0x30, Instr.bmi rel8, s.cpu.p.n), (0x10, Instr.bpl rel8, !s.cpu.p.n),
      (0x50, Instr.bvc rel8, !s.cpu.p.v), (0x70, Instr.bvs rel8, s.cpu.p.v)] →
    encode i = [op, rel8] ∧
    exec i s = .next ((s.perform (branchRequests cond rel8 s)).mapCpu fun c =>
      { c with pc := if cond then branchTarget rel8 s else c.pc + 1 })

/-- 44_control_flow.md R231, R232, 40_step_and_addressing.md R142: the pointer's second byte is read from the same page.
-/
def Obligations.JumpsSetPc : Prop :=
  ∀ (s : State) (w : Word),
    let operands := [Request.read s.cpu.pc, .read (s.cpu.pc + 1)]
    let second := BitVec.ofNat 16 (w.toNat / 256 * 256 + (w.toNat % 256 + 1) % 256)
    encode (.jmpAbs w) = [0x4C, loByte w, hiByte w] ∧
    exec (.jmpAbs w) s = .next ((s.perform operands).mapCpu fun c => { c with pc := w }) ∧
    encode (.jmpInd w) = [0x6C, loByte w, hiByte w] ∧
    exec (.jmpInd w) s =
      .next ((s.perform (operands ++ [.read w, .read second])).mapCpu fun c =>
        { c with pc := word (s.answer (operands ++ [.read w]) second) (s.answer operands w) })

/-- 44_control_flow.md R233: the address of the last byte of the `JSR` is pushed, high byte first; the high byte of the
target is read after the pushes. -/
def Obligations.JsrPushesItsLastAddress : Prop :=
  ∀ (s : State) (w : Word),
    let last := s.cpu.pc + 1
    let before := [Request.read s.cpu.pc, .read (stackBelow s 0), .write (stackBelow s 0) (hiByte last),
      .write (stackBelow s 1) (loByte last)]
    encode (.jsr w) = [0x20, loByte w, hiByte w] ∧
    exec (.jsr w) s =
      .next ((s.perform (before ++ [.read last])).mapCpu fun c =>
        { c with sp := spMinus s 2, pc := word (s.answer before last) (loByte w) })

/-- 44_control_flow.md R234. -/
def Obligations.RtsPullsPcAndAddsOne : Prop :=
  ∀ (s : State),
    let dummies := [Request.read s.cpu.pc, .read (stackAbove s 0)]
    let low := s.answer dummies (stackAbove s 1)
    let high := s.answer (dummies ++ [.read (stackAbove s 1)]) (stackAbove s 2)
    encode .rts = [0x60] ∧
    exec .rts s =
      .next ((s.perform (dummies ++ [.read (stackAbove s 1), .read (stackAbove s 2), .read (word high low)])).mapCpu
        fun c => { c with sp := spPlus s 2, pc := word high low + 1 })

/-- 44_control_flow.md R245, R233, R234: `RTS` after `JSR`, with the stack as the `JSR` left it, continues after the
`JSR` (whose next instruction is at `PC + 2` here) with `S` as before; the two stack bytes are RAM, so that what was
pushed is what is pulled. -/
def Obligations.RtsUndoesJsr : Prop :=
  ∀ (s : State) (w : Word), s.bus.target (stackBelow s 0) = .ram → s.bus.target (stackBelow s 1) = .ram →
    ∃ t u, exec (.jsr w) s = .next t ∧ exec .rts t = .next u ∧ u.cpu = { s.cpu with pc := s.cpu.pc + 2 }

/-- 44_control_flow.md R243, 60_exceptions.md R317, R319: `BRK` is an exception entry through the IRQ vector, with bit 4
of the pushed status set and `pc0 + 2` (here `PC + 1`) as the return address, whatever `P.I` is. -/
def Obligations.BrkTakesTheIrqVector : Prop :=
  ∀ (s : State), encode .brk = [0x00] ∧
    exec .brk s =
      .next (s.afterEntry (.read s.cpu.pc :: entryPushes true (s.cpu.pc + 1) s) 0xFFFE)

/-- 44_control_flow.md R244, 10_state.md R29: the pulled status gives the six flags, `P.B` stays, and `PC` is exact. -/
def Obligations.RtiPullsStatusAndPc : Prop :=
  ∀ (s : State),
    let dummies := [Request.read s.cpu.pc, .read (stackAbove s 0)]
    let first := Request.read (stackAbove s 1)
    let second := Request.read (stackAbove s 2)
    let v := (s.answer dummies (stackAbove s 1)).toNat
    encode .rti = [0x40] ∧
    exec .rti s =
      .next ((s.perform (dummies ++ [first, second, .read (stackAbove s 3)])).mapCpu fun c =>
        { c with
          sp := spPlus s 3
          pc := word (s.answer (dummies ++ [first, second]) (stackAbove s 3))
            (s.answer (dummies ++ [first]) (stackAbove s 2))
          p := { n := v.testBit 7, v := v.testBit 6, b := c.p.b, d := v.testBit 3, i := v.testBit 2
                 z := v.testBit 1, c := v.testBit 0 } })

/-- 60_exceptions.md R319, R320, 44_control_flow.md R245: `RTI` with the stack as an exception entry left it restores
every register and flag of the state before the entry, `PC` being the pushed address, for both values of bit 4; the three
stack bytes are RAM, so that what was pushed is what is pulled. -/
def Obligations.RtiUndoesExceptionEntry : Prop :=
  ∀ (s : State) (b : Bool) (vec : Word), (∀ n < 3, s.bus.target (stackBelow s n) = .ram) →
    ∃ t, exec .rti (takeException b vec s) = .next t ∧ t.cpu = s.cpu

/-- 45_stack_flags_nop.md R250 to R253. -/
def Obligations.StackInstructions : Prop :=
  ∀ (s : State),
    let dummies := [Request.read s.cpu.pc, .read (stackAbove s 0)]
    let pulled := s.answer dummies (stackAbove s 1)
    let v := pulled.toNat
    encode .pha = [0x48] ∧
    exec .pha s = .next ((s.perform [.read s.cpu.pc, .write (stackBelow s 0) s.cpu.a]).mapCpu fun c =>
      { c with sp := spMinus s 1 }) ∧
    encode .php = [0x08] ∧
    exec .php s = .next ((s.perform [.read s.cpu.pc, .write (stackBelow s 0) (packP true s.cpu.p)]).mapCpu fun c =>
      { c with sp := spMinus s 1 }) ∧
    encode .pla = [0x68] ∧
    exec .pla s = .next ((s.perform (dummies ++ [.read (stackAbove s 1)])).mapCpu fun c =>
      { c with sp := spPlus s 1, a := pulled, p := withZN pulled c.p }) ∧
    encode .plp = [0x28] ∧
    exec .plp s = .next ((s.perform (dummies ++ [.read (stackAbove s 1)])).mapCpu fun c =>
      { c with
        sp := spPlus s 1
        p := { n := v.testBit 7, v := v.testBit 6, b := c.p.b, d := v.testBit 3, i := v.testBit 2
               z := v.testBit 1, c := v.testBit 0 } })

/-- 45_stack_flags_nop.md R254 to R261. -/
def Obligations.FlagInstructionsAndNop : Prop :=
  ∀ (s : State) (op : Byte) (i : Instr) (p : Flags),
    (op, i, p) ∈ [
      (0x18, Instr.clc, { s.cpu.p with c := false }), (0x38, Instr.sec, { s.cpu.p with c := true }),
      (0x58, Instr.cli, { s.cpu.p with i := false }), (0x78, Instr.sei, { s.cpu.p with i := true }),
      (0xD8, Instr.cld, { s.cpu.p with d := false }), (0xF8, Instr.sed, { s.cpu.p with d := true }),
      (0xB8, Instr.clv, { s.cpu.p with v := false }), (0xEA, Instr.nop, s.cpu.p)] →
    encode i = [op] ∧ exec i s = .next (s.afterImplied { s.cpu with p := p })

/-- 10_state.md R28, R29: the packed status, and that unpacking it gives the flags back with `P.B` kept. -/
def Obligations.PackedStatusRoundTrip : Prop :=
  ∀ (b : Bool) (p q : Flags),
    packP b p = BitVec.ofNat 8 (128 * p.n.toNat + 64 * p.v.toNat + 32 + 16 * b.toNat + 8 * p.d.toNat + 4 * p.i.toNat +
      2 * p.z.toNat + p.c.toNat) ∧
    unpackP (packP b p) q = { p with b := q.b }

/-- 46_undefined_opcodes.md R270, 60_exceptions.md R325: a step that fetches an undefined opcode makes that one access,
leaves `PC` on the opcode, sets `jammed`, changes no other register or flag and no more of the bus than its read does, and
answers `Jammed` whatever watchpoint its read matched. -/
def Obligations.UndefinedOpcodeJams : Prop :=
  ∀ (s : State) (op : Byte),
    let read := s.bus.accesses [.read s.cpu.pc]
    exec (.jam op) s = .next (s.mapCpu fun c => { c with pc := c.pc - 1, jammed := true }) ∧
    (ReachesFetch s → NoBreakpoint s → peek s.bus s.cpu.pc ∈ undefinedOpcodes →
      step s = .next { s.atFetch with
        cpu := { s.cpu with jammed := true }
        cycles := s.cycles + 1
        bus := s.bus.after [.read s.cpu.pc]
        trace := read
        watchHit := firstMatch s.wps read
        outcome := some .jammed })

/-- 10_state.md R31, R27: an instruction leaves every flag that the table marks as unchanged; none writes `P.B`. -/
def Obligations.FlagsFrame : Prop :=
  ∀ (i : Instr) (s t : State), exec i s = .next t →
    let k := flagMask (mnemonicOf i)
    (k.n = false → t.cpu.p.n = s.cpu.p.n) ∧ (k.v = false → t.cpu.p.v = s.cpu.p.v) ∧
    (k.d = false → t.cpu.p.d = s.cpu.p.d) ∧ (k.i = false → t.cpu.p.i = s.cpu.p.i) ∧
    (k.z = false → t.cpu.p.z = s.cpu.p.z) ∧ (k.c = false → t.cpu.p.c = s.cpu.p.c) ∧ t.cpu.p.b = s.cpu.p.b

/-- An instruction writes no register but its destination and, where it pushes or pulls, `S`; `jammed` changes by `jam`
only; the latches, the tables, the lines and the last outcome are as before. -/
def Obligations.RegistersFrame : Prop :=
  ∀ (i : Instr) (s t : State), exec i s = .next t →
    ((registerMask i).a = false → t.cpu.a = s.cpu.a) ∧ ((registerMask i).x = false → t.cpu.x = s.cpu.x) ∧
    ((registerMask i).y = false → t.cpu.y = s.cpu.y) ∧ ((registerMask i).sp = false → t.cpu.sp = s.cpu.sp) ∧
    ((∀ op, i ≠ .jam op) → t.cpu.jammed = s.cpu.jammed) ∧ untouched s t

/-- An instruction that stores nothing issues no write and leaves every byte of memory and the map of the bus. -/
def Obligations.NonStoringInstructionsLeaveMemory : Prop :=
  ∀ (i : Instr) (s t : State), storesToMemory i = false → exec i s = .next t → WroteOnly [] s t

/-- A store or read-modify-write instruction writes only to the address its operand resolves to and leaves every other
byte; a push writes only to the addresses of 20_memory.md R68. -/
def Obligations.StoringInstructionsWriteOnlyTheirBytes : Prop :=
  ∀ (i : Instr) (s t : State), exec i s = .next t →
    (∀ (m : Mode) (op : Byte), (∃ form ∈ storeForms, form m = some (op, i)) → WroteOnly [(m.resolve s).1.ea] s t) ∧
    (i = .pha ∨ i = .php → WroteOnly [stackAddress s.cpu.sp] s t) ∧
    ((∃ w, i = .jsr w) → WroteOnly [stackAddress s.cpu.sp, stackAddress (s.cpu.sp - 1)] s t) ∧
    (i = .brk →
      WroteOnly [stackAddress s.cpu.sp, stackAddress (s.cpu.sp - 1), stackAddress (s.cpu.sp - 1 - 1)] s t)

/-- 10_state.md R25, 30_encoding.md R92: after an instruction that is no control transfer, `PC` is the address of the
instruction (here `s.cpu.pc - 1`) plus its length. -/
def Obligations.PcMovesPastTheInstruction : Prop :=
  ∀ (i : Instr) (s t : State), i.wellFormed = true → transfersControl i = false → exec i s = .next t →
    t.cpu.pc = s.cpu.pc - 1 + BitVec.ofNat 16 (encode i).length

/-- 40_step_and_addressing.md R151: the closed form of the cost of every instruction, of which 1 is the opcode fetch
already made, is the number of cycles and of accesses. -/
def Obligations.DocumentedCostIsTheAccessCount : Prop :=
  ∀ (i : Instr) (s t : State), i.wellFormed = true → exec i s = .next t →
    t.cycles + 1 = s.cycles + documentedCost i s ∧ t.trace.length + 1 = s.trace.length + documentedCost i s

/-- 40_step_and_addressing.md R121 lines 12 to 30, R125, R127: a step that reaches the fetch stage and meets no breakpoint
fetches the opcode, runs the instruction that the bytes at `PC` decode to, and gives its outcome. The bytes decoded are
those that the bus answers to the fetches: the step's trace starts with the reads of the instruction's own bytes (`JSR`
reads its third byte after its pushes, `JsrPushesItsLastAddress`). -/
def Obligations.StepRunsDecodedInstruction : Prop :=
  ∀ (s : State) (i : Instr) (rest : List Byte), ReachesFetch s → NoBreakpoint s →
    let pc := s.cpu.pc
    decode [peek s.bus pc, peek (s.bus.after [.read pc]) (pc + 1),
      peek (s.bus.after [.read pc, .read (pc + 1)]) (pc + 2)] = .ok (i, rest) →
    let fetched := (encode i).take (match i with | .jsr _ => 2 | _ => 3)
    ∃ t, exec i s.fetched = .next t ∧
      t.trace.take fetched.length = fetched.zipIdx.map (fun x => ⟨.read, pc + BitVec.ofNat 16 x.2, x.1⟩) ∧
      step s = .next { t with
        outcome := some (
          if t.cpu.jammed then .jammed
          else match t.watchHit with
            | some a => .trapped ⟨a, .watchpoint, t.cpu⟩
            | none => .ok) }

/-- 60_exceptions.md R326: a jammed step answers `Jammed` and changes nothing else (the trace of accesses is that of this
step: empty, log 8). -/
def Obligations.JammedStepDoesNothing : Prop :=
  ∀ (s : State), s.cpu.jammed = true → step s = .next { s with outcome := some .jammed, trace := [] }

/-- 60_exceptions.md R311 to R315: which step runs which interrupt sequence, and all it does. -/
def Obligations.InterruptsAreTaken : Prop :=
  ∀ (s : State), s.cpu.jammed = false →
    let done := fun (t : State) => { t with
      outcome := some (match t.watchHit with | some a => .trapped ⟨a, .watchpoint, t.cpu⟩ | none => .ok) }
    (NmiDue s → step s = .next (done (s.atInterrupt.afterInterrupt 0xFFFA))) ∧
    (¬ NmiDue s → s.irqLine = true → s.cpu.p.i = false →
      step s = .next (done (s.atInterrupt.afterInterrupt 0xFFFE)))

/-- 60_exceptions.md R311, R313, 10_state.md R34, R38: after a step of an engine that was not jammed, `nmi_prev` is the
line's level at this step's sample, no NMI is pending, the lines are as their drivers left them, and a line that stays
asserted is no new NMI; a step from AwaitingInterruptService is one interrupt sequence of seven accesses. -/
def Obligations.InterruptServiceIsOneStep : Prop :=
  ∀ (s t : State), s.cpu.jammed = false → step s = .next t →
    t.nmiPrev = s.nmiLine ∧ t.nmiPending = false ∧ t.irqLine = s.irqLine ∧ t.nmiLine = s.nmiLine ∧
    (s.nmiLine = true → ¬ NmiDue t) ∧
    (engineState s = .awaitingInterruptService →
      t.cpu.p.i = true ∧ t.cpu.jammed = false ∧ t.trace.length = 7 ∧ engineState t = .running)

/-- 60_exceptions.md R321, 49_debugger.md R285: an enabled breakpoint that is not bypassed stops the step before any
effect of the instruction; a soft one is removed (`outcome` and `trace` are the records of log 8). -/
def Obligations.BreakpointStopsBeforeTheInstruction : Prop :=
  ∀ (s : State) (b : Breakpoint), ReachesFetch s → s.bpSkip ≠ some s.cpu.pc →
    breakpointAt s.bps s.cpu.pc = some b → b.enabled = true →
    step s = .next { s.atFetch with
      bpSkip := some s.cpu.pc
      bps := match b.kind with | .hard => s.bps | .soft => removeBreakpoint s.cpu.pc s.bps
      outcome := some (.trapped ⟨s.cpu.pc, .breakpoint, s.cpu⟩) }

/-- 49_debugger.md R293, 60_exceptions.md R322: after a breakpoint trap, the next step that reaches the fetch stage at
the same `PC` makes the opcode read and is no breakpoint trap, and the bypass is used up. -/
def Obligations.ResumePassesTheBreakpoint : Prop :=
  ∀ (s t : State) (x : ExecutionTrap), step s = .next t → t.outcome = some (.trapped x) → x.kind = .breakpoint →
    ReachesFetch t →
    ∃ u, step t = .next u ∧ u.trace.head? = some ⟨.read, t.cpu.pc, peek t.bus t.cpu.pc⟩ ∧ u.bpSkip = none ∧ u.bps = t.bps ∧
      ∀ y, u.outcome = some (.trapped y) → y.kind = .watchpoint

/-- 40_step_and_addressing.md R124, 20_memory.md R65: which outcome a step has. -/
def Obligations.OutcomeOfAStep : Prop :=
  ∀ (s t : State), step s = .next t →
    (s.cpu.jammed = true → t.outcome = some .jammed ∧ t.trace = []) ∧
    (s.cpu.jammed = false →
      (t.outcome = some (.trapped ⟨s.cpu.pc, .breakpoint, s.cpu⟩) ∧ t.trace = [] ∧ t.cpu = s.cpu) ∨
      (t.trace ≠ [] ∧ t.outcome = some (
        if t.cpu.jammed then .jammed
        else match firstMatch s.wps t.trace with
          | some a => .trapped ⟨a, .watchpoint, t.cpu⟩
          | none => .ok)))

/-- 49_debugger.md R295: with both tables empty no step traps, and they stay empty. -/
def Obligations.NoTableEntryNoTrap : Prop :=
  ∀ (s t : State), s.bps = [] → s.wps = [] → step s = .next t →
    t.bps = [] ∧ t.wps = [] ∧ (t.outcome = some .ok ∨ t.outcome = some .jammed)

/-- 49_debugger.md R295, 60_exceptions.md R323: a watchpoint never prevents or alters an access, a register, a flag, a
memory byte or a breakpoint: two states that differ in WP_TABLE only step to states that differ in WP_TABLE, in the match
and in the outcome only. -/
def Obligations.WatchpointsAlterNothing : Prop :=
  ∀ (s t u : State) (w : List Watchpoint), step s = .next t → step { s with wps := w } = .next u →
    u = { t with wps := w, watchHit := u.watchHit, outcome := u.outcome }

/-- 40_step_and_addressing.md R152, 10_state.md R27: neither the cycle count nor `P.B` influences a step: the step from
a state with other values there is the step, with those values carried along. -/
def Obligations.CyclesAndBreakFlagInfluenceNothing : Prop :=
  ∀ (s t : State) (n : Nat) (b : Bool), step s = .next t →
    step (s.withCycles (s.cycles + n)) = .next (t.withCycles (t.cycles + n)) ∧
    ∃ u, step (s.withBreakFlag b) = .next u ∧ { u with outcome := t.outcome } = t.withBreakFlag b

/-- 20_memory.md R67, 40_step_and_addressing.md R150, 10_state.md R39: a step adds as many cycles as it makes accesses;
never fewer than none, never more than seven. -/
def Obligations.CyclesCountAccesses : Prop :=
  ∀ (s t : State), step s = .next t → t.cycles = s.cycles + t.trace.length ∧ t.trace.length ≤ 7

/-- Every step keeps the invariant: canonical bytes and tables, at most one entry a key, and `P.B = 1` (10_state.md
R39). -/
def Obligations.StepKeepsInvariant : Prop :=
  ∀ (s t : State), Inv s → step s = .next t → Inv t

/-- The state at reset has the invariant, and `reset()` gives it in every state whose bytes and tables are canonical. -/
def Obligations.ResetHasInvariant : Prop :=
  Inv State.reset ∧
    ∀ (s : State), s.bus.mem.wf → Keyed breakKey s.bps → Keyed watchKey s.wps → Keyed BitVec.toNat s.stepArmed →
      Inv (resetProcessor s)

/-- Every call from outside keeps the invariant. -/
def Obligations.HostCallsKeepInvariant : Prop :=
  ∀ (c : HostCall) (s t : State) (r : Reply), Inv s → hostCall c s = .next (r, t) → Inv t

/-- 60_exceptions.md R310, 20_memory.md R60: nothing faults; every step answers a next state. -/
def Obligations.EveryStepAnswersANextState : Prop :=
  (∀ (i : Instr) (s : State), ∃ t, exec i s = .next t) ∧ ∀ (s : State), ∃ t, step s = .next t

/-- 70_reset_and_hazards.md R350, R351, 10_state.md R40: what `reset()` sets, that the two vector reads are all it does to
the bus, and that it leaves the tables and the lines (`watchHit`, `outcome`, `trace` and `stepArmed` are the records of log
8, 9 and 24). -/
def Obligations.ResetSetsTheListedValues : Prop :=
  ∀ (s : State), hostCall .reset s = .next (.done, { s with
    cpu := {
      a := 0x00, x := 0x00, y := 0x00, sp := 0xFD, pc := word (s.answer [.read 0xFFFC] 0xFFFD) (s.answer [] 0xFFFC)
      p := { n := false, v := false, b := true, d := false, i := true, z := false, c := false }
      jammed := false }
    cycles := 0
    nmiPrev := false
    nmiPending := false
    bpSkip := none
    watchHit := none
    bus := s.bus.after [.read 0xFFFC, .read 0xFFFD]
    outcome := none
    trace := [] })

/-- 20_memory.md R61, R62, R66: the parameter `Bus`. RAM answers the byte last written; ROM ignores a write; a device's
answer is the free value `Config.deviceAnswer` of what it has met (log 1); `Peek` answers what a read would; with no map
the bus is the reference bus, RAM everywhere. -/
def Obligations.BusServesRamRomAndDevices : Prop :=
  ∀ (b : Bus) (a c : Word) (v : Byte),
    (b.regions = [] → b.target a = .ram) ∧
    (b.target a ≠ .device → busRead b a = (b.mem.read a, b)) ∧
    (b.target a = .device →
      busRead b a = (Config.deviceAnswer b.events a, { b with events := b.events ++ [.read a] })) ∧
    peek b a = (busRead b a).1 ∧
    (b.target a = .ram → b.target c ≠ .device → peek (busWrite b a v) c = if c = a then v else peek b c) ∧
    (b.target a = .rom → busWrite b a v = b) ∧
    (b.target a = .device → busWrite b a v = { b with events := b.events ++ [.write a v] }) ∧
    (b.mem.wf → (busRead b a).2.mem.wf ∧ (busWrite b a v).mem.wf ∧
      (b.target a = .ram → busWrite b a (b.mem.read a) = b))

/-- 49_debugger.md R282, R287 to R290, R292: each table command changes the record it names and no other, stores it
enabled, and changes nothing else but the observer's record of what `singleStep()` armed (log 24); clearing a record that
is not there changes no table; the command that R282 lets a model add writes `enabled` and nothing else (log 18);
`singleStep()` arms an enabled soft breakpoint after the current instruction's length. -/
def Obligations.TableCommandsWriteOneRecord : Prop :=
  ∀ (s : State) (a b : Word) (k : BreakKind) (e : Bool) (x y : WatchAccess),
    (setBreakpoint a k s = { s with bps := (setBreakpoint a k s).bps, stepArmed := (setBreakpoint a k s).stepArmed } ∧
      breakpointAt (setBreakpoint a k s).bps b = (if b = a then some ⟨a, k, true⟩ else breakpointAt s.bps b) ∧
      (b ∈ (setBreakpoint a k s).stepArmed ↔ b ∈ s.stepArmed ∧ b ≠ a)) ∧
    (clearBreakpoint a s = { s with bps := (clearBreakpoint a s).bps, stepArmed := (clearBreakpoint a s).stepArmed } ∧
      breakpointAt (clearBreakpoint a s).bps b = (if b = a then none else breakpointAt s.bps b) ∧
      (breakpointAt s.bps a = none → (clearBreakpoint a s).bps = s.bps) ∧
      (b ∈ (clearBreakpoint a s).stepArmed ↔ b ∈ s.stepArmed ∧ b ≠ a)) ∧
    (setWatchpoint a x s = { s with wps := (setWatchpoint a x s).wps } ∧
      watchpointAt (setWatchpoint a x s).wps b y =
        (if b = a ∧ y = x then some ⟨a, x, true⟩ else watchpointAt s.wps b y)) ∧
    (clearWatchpoint a x s = { s with wps := (clearWatchpoint a x s).wps } ∧
      watchpointAt (clearWatchpoint a x s).wps b y = (if b = a ∧ y = x then none else watchpointAt s.wps b y) ∧
      (watchpointAt s.wps a x = none → clearWatchpoint a x s = s)) ∧
    (enableBreakpoint a e s = { s with bps := (enableBreakpoint a e s).bps } ∧
      breakpointAt (enableBreakpoint a e s).bps b =
        (breakpointAt s.bps b).map fun r => { r with enabled := if b = a then e else r.enabled }) ∧
    (enableWatchpoint a x e s = { s with wps := (enableWatchpoint a x e s).wps } ∧
      watchpointAt (enableWatchpoint a x e s).wps b y =
        (watchpointAt s.wps b y).map fun r => { r with enabled := if b = a ∧ y = x then e else r.enabled }) ∧
    (singleStep s = { s with bps := (singleStep s).bps, stepArmed := (singleStep s).stepArmed } ∧
      (singleStep s).bps =
        (setBreakpoint (s.cpu.pc + BitVec.ofNat 16 (instrLength (peek s.bus s.cpu.pc))) .soft s).bps ∧
      (b ∈ (singleStep s).stepArmed ↔
        b = s.cpu.pc + BitVec.ofNat 16 (instrLength (peek s.bus s.cpu.pc)) ∨ b ∈ s.stepArmed))

/-- 49_debugger.md R285, R286: the lookups, over tables in canonical form (`StepKeepsInvariant` keeps them so). -/
def Obligations.DebuggerLookups : Prop :=
  ∀ (t : List Breakpoint) (u : List Watchpoint) (a : Word) (k : AccessKind), Keyed breakKey t → Keyed watchKey u →
    (∀ b, (checkFetch t a).1 = some b ↔ b ∈ t ∧ b.address = a ∧ b.enabled = true) ∧
    (∀ b, b ∈ (checkFetch t a).2 ↔ b ∈ t ∧ ¬ (b.address = a ∧ b.enabled = true ∧ b.kind = .soft)) ∧
    (∀ w, checkAccess u a k = some w ↔ w ∈ u ∧ w.address = a ∧ w.enabled = true ∧
      (w.access = k.exact ∨ (w.access = .any ∧ ∀ v ∈ u, v.address = a → v.access = k.exact → v.enabled = false)))

/-- 10_state.md R32, R38: a step enters the jam only on an undefined opcode, and then it sets of ProcessorState `jammed`
only, adds one cycle, leaves the bus as its one read does, and answers `Jammed` (the whole next state is
`UndefinedOpcodeJams`). -/
def Obligations.OnlyUndefinedOpcodesJam : Prop :=
  ∀ (s t : State), s.cpu.jammed = false → step s = .next t → t.cpu.jammed = true →
    peek s.bus s.cpu.pc ∈ undefinedOpcodes ∧ t.cpu = { s.cpu with jammed := true } ∧
    t.bus = s.bus.after [.read s.cpu.pc] ∧ t.cycles = s.cycles + 1 ∧ t.outcome = some .jammed

/-- 60_exceptions.md R327, 10_state.md R39 (c): no list of calls without `reset` and `loadSnapshot` ends a jam or changes
ProcessorState, `cycles` or a latch of a jammed engine. -/
def Obligations.JamIsTerminal : Prop :=
  ∀ (calls : List HostCall) (s t : State), s.cpu.jammed = true → (∀ c ∈ calls, c.endsJam = false) →
    session calls s = .next t →
    t.cpu = s.cpu ∧ t.cycles = s.cycles ∧ t.nmiPrev = s.nmiPrev ∧ t.nmiPending = s.nmiPending ∧ t.bpSkip = s.bpSkip

/-- 49_debugger.md R291, 00_scope.md R9: no call but `step`, `reset` and `loadSnapshot` changes ProcessorState, `cycles`
or a latch; only the environment's three calls change the bus; only `setLines` changes the lines. -/
def Obligations.HostCommandsLeaveTheProcessor : Prop :=
  ∀ (c : HostCall) (s t : State) (r : Reply), c ≠ .step → c.endsJam = false → hostCall c s = .next (r, t) →
    t.cpu = s.cpu ∧ t.cycles = s.cycles ∧ t.nmiPrev = s.nmiPrev ∧ t.nmiPending = s.nmiPending ∧
    t.bpSkip = s.bpSkip ∧
    ((∀ l, c ≠ .setBytes l) → (∀ r, c ≠ .setMap r) → (∀ n, c ≠ .deviceChange n) → t.bus = s.bus) ∧
    ((∀ i n, c ≠ .setLines i n) → t.irqLine = s.irqLine ∧ t.nmiLine = s.nmiLine)

/-- 70_reset_and_hazards.md R353, R354: a captured tuple loads back, into any state; a tuple with the invariants loads
and is then the state's tuple, the bus and the lines being left; the model's choice, log 15: any other tuple is refused. The
observer's record of what `singleStep()` armed is no part of the tuple (log 24). `configure` is an error that changes
nothing. -/
def Obligations.SnapshotsAndConfigure : Prop :=
  ∀ (s : State) (x : Snapshot) (option value : String),
    (x.wf → ∃ t, hostCall (.loadSnapshot x) s = .next (.done, t) ∧ captureSnapshot t = x ∧ t.bus = s.bus ∧
      t.irqLine = s.irqLine ∧ t.nmiLine = s.nmiLine) ∧
    (¬ x.wf → hostCall (.loadSnapshot x) s = .refused .invalidSnapshot) ∧
    (Inv s → (captureSnapshot s).wf ∧ restoreSnapshot (captureSnapshot s) s = { s with stepArmed := [] }) ∧
    hostCall (.configure option value) s = .next (.configError, s)

/-- 49_debugger.md R292, R293, R295: after `singleStep()` a step over an instruction that is no control transfer is
followed, unless an interrupt or a jam comes first, by a breakpoint trap at the address after that instruction, which the
observer reports as single-step completion (how it tells, log 24). -/
def Obligations.SingleStepStopsAfterTheInstruction : Prop :=
  ∀ (s t : State), ReachesFetch s → NoBreakpoint s →
    transfersControl (instrAt s.bus s.cpu.pc) = false → step (singleStep s) = .next t → ReachesFetch t →
    t.cpu.pc = s.cpu.pc + BitVec.ofNat 16 (instrLength (peek s.bus s.cpu.pc)) ∧
    ∃ u, step t = .next u ∧ u.outcome = some (.trapped ⟨t.cpu.pc, .breakpoint, t.cpu⟩) ∧ u.cpu = t.cpu ∧
      u.bus = t.bus ∧ u.cycles = t.cycles ∧ notification t u = some ⟨t.cpu.pc, .singleStep, t.cpu⟩

/-- 49_debugger.md R292, R296, 10_state.md R42: every trap is notified once, with its address, its kind and its state; the
kind of a breakpoint trap is single-step completion where `singleStep()` armed the breakpoint (how the observer tells, log
24) and breakpoint elsewhere. A jam is notified on the step that sets `jammed` and on no step from a jammed state. A step
whose outcome is `Ok` is not notified. -/
def Obligations.TrapsAndJamsAreNotified : Prop :=
  ∀ (s t : State), step s = .next t →
    (∀ x, t.outcome = some (.trapped x) → notification s t = some ⟨x.address,
      match x.kind with
      | .watchpoint => .watchpoint
      | .breakpoint => if x.address ∈ s.stepArmed then .singleStep else .breakpoint,
      x.state⟩) ∧
    (s.cpu.jammed = false → t.cpu.jammed = true → notification s t = some ⟨t.cpu.pc, .jam, t.cpu⟩) ∧
    (s.cpu.jammed = true → notification s t = none) ∧
    (t.outcome = some .ok → notification s t = none) ∧
    t.stepArmed = s.stepArmed

/-- 70_reset_and_hazards.md R360, 60_exceptions.md R333: a run steps until an outcome other than `Ok`. A run with a budget
that is not yet consumed ends `Completed` with the budget consumed and at most six cycles more, or at the first outcome
other than `Ok`, which the last state shows. The bound `fuel` is the model's (log 22): fuel of at least what is left of
the budget never runs out, because every `Ok` step makes an access; and a run of one step more is that step, then the
run from the state after it. -/
def Obligations.RunStopsAtBudgetOrTrap : Prop :=
  ∀ (budget start fuel : Nat) (s t : State), start ≤ s.cycles → s.cycles - start < budget →
    (runLoop (some budget) start fuel s = .next (.completed, t) →
      budget ≤ t.cycles - start ∧ t.cycles - start ≤ budget + 6) ∧
    (∀ o, runLoop (some budget) start fuel s = .next (.stopped o, t) → t.outcome = some o ∧ o ≠ .ok) ∧
    (budget - (s.cycles - start) ≤ fuel →
      ∃ e u, runLoop (some budget) start fuel s = .next (e, u) ∧ (e = .completed ∨ ∃ o, e = .stopped o)) ∧
    (step s = .next t → ∀ limit ∈ [none, some budget],
      (t.outcome = some .ok → runLoop limit start (fuel + 1) s = runLoop limit start fuel t) ∧
      (∀ o, t.outcome = some o → o ≠ .ok → runLoop limit start (fuel + 1) s = .next (.stopped o, t)))
end

