-- ==== Sys2Proof/Laws/Table.lean ====
section
/-! SUPPORT. The laws of keyed lists: a lookup after a put or a removal, and that the canonical form is kept. -/

namespace Sys2Proof.Machine

variable {α : Type} {key : α → Nat}

theorem findKey_removeKey_same (k : Nat) (l : List α) : findKey key k (removeKey key k l) = none := by
  simp [findKey, removeKey]

theorem findKey_removeKey_other {k j : Nat} (h : j ≠ k) (l : List α) :
    findKey key j (removeKey key k l) = findKey key j l := by
  induction l with
  | nil => rfl
  | cons y l ih =>
    simp only [findKey, removeKey] at ih ⊢
    by_cases hy : key y = k
    · have hj : ¬ key y = j := fun e => h (e.symm.trans hy)
      simp [hy, ih, Ne.symm h]
    · by_cases hj : key y = j
      · simp [hj, h]
      · simp [hy, hj, ih]

theorem findKey_insertKey_other {x : α} {j : Nat} (h : key x ≠ j) (l : List α) :
    findKey key j (insertKey key x l) = findKey key j l := by
  induction l with
  | nil => simp [insertKey, findKey, h]
  | cons y l ih =>
    simp only [findKey] at ih ⊢
    by_cases hk : key x < key y
    · simp [insertKey, hk, h]
    · simp only [insertKey, hk, if_false, List.find?_cons, ih]

theorem findKey_insertKey_same {x : α} {l : List α} (h : findKey key (key x) l = none) :
    findKey key (key x) (insertKey key x l) = some x := by
  induction l with
  | nil => simp [insertKey, findKey]
  | cons y l ih =>
    have hy : ¬ key y = key x := by
      simp only [findKey, List.find?_eq_none] at h
      simpa using h y (by simp)
    have ht : findKey key (key x) l = none := by
      simpa [findKey, hy] using h
    by_cases hk : key x < key y
    · simp [insertKey, findKey, hk]
    · simpa [insertKey, findKey, hk, hy] using ih ht

theorem findKey_putKey (x : α) (j : Nat) (l : List α) :
    findKey key j (putKey key x l) = if key x = j then some x else findKey key j l := by
  unfold putKey
  split
  · next h =>
    subst h
    exact findKey_insertKey_same (findKey_removeKey_same _ l)
  · next h => rw [findKey_insertKey_other h, findKey_removeKey_other (Ne.symm h)]

theorem removeKey_keyed {l : List α} (h : Keyed key l) (k : Nat) : Keyed key (removeKey key k l) :=
  List.Pairwise.filter _ h

theorem mem_insertKey {x y : α} {l : List α} : y ∈ insertKey key x l ↔ y = x ∨ y ∈ l := by
  induction l with
  | nil => simp [insertKey]
  | cons z l ih =>
    by_cases hk : key x < key z
    · simp [insertKey, hk]
    · simp only [insertKey, hk, if_false, List.mem_cons, ih]
      exact or_left_comm

theorem insertKey_keyed {x : α} {l : List α} (h : Keyed key l) (hx : ∀ y ∈ l, key y ≠ key x) :
    Keyed key (insertKey key x l) := by
  induction l with
  | nil => simp [insertKey]
  | cons y l ih =>
    obtain ⟨hy, hl⟩ := List.pairwise_cons.1 h
    by_cases hk : key x < key y
    · simp only [insertKey, hk, if_true]
      refine List.pairwise_cons.2 ⟨fun z hz => ?_, h⟩
      rcases List.mem_cons.1 hz with rfl | hz
      · exact hk
      · exact Nat.lt_trans hk (hy z hz)
    · simp only [insertKey, hk, if_false]
      refine List.pairwise_cons.2 ⟨fun z hz => ?_, ih hl fun z hz => hx z (by simp [hz])⟩
      rcases mem_insertKey.1 hz with rfl | hz
      · have := hx y (by simp)
        omega
      · exact hy z hz

theorem putKey_keyed {l : List α} (h : Keyed key l) (x : α) : Keyed key (putKey key x l) :=
  insertKey_keyed (removeKey_keyed h _) fun y hy => by
    have := (List.mem_filter.1 hy).2
    simpa using this

theorem mem_putKey {x y : α} {l : List α} (h : y ∈ putKey key x l) : y = x ∨ y ∈ l := by
  rcases mem_insertKey.1 h with h | h
  · exact .inl h
  · exact .inr (List.mem_filter.1 h).1

theorem mem_putKey_self (x : α) (l : List α) : x ∈ putKey key x l := mem_insertKey.2 (.inl rfl)

theorem mem_removeKey {k : Nat} {y : α} {l : List α} : y ∈ removeKey key k l ↔ y ∈ l ∧ key y ≠ k := by
  simp [removeKey, List.mem_filter]

/-- A change of the records that keeps their keys. -/
theorem findKey_map {f : α → α} (hf : ∀ x, key (f x) = key x) (k : Nat) (l : List α) :
    findKey key k (l.map f) = (findKey key k l).map f := by
  simp only [findKey, List.find?_map, Function.comp_def, hf]

theorem map_keyed {f : α → α} (hf : ∀ x, key (f x) = key x) {l : List α} (h : Keyed key l) : Keyed key (l.map f) := by
  unfold Keyed at *
  rw [List.pairwise_map]
  simpa only [hf] using h

theorem findKey_eq_some {l : List α} (h : Keyed key l) {k : Nat} {x : α} :
    findKey key k l = some x ↔ x ∈ l ∧ key x = k := by
  induction l with
  | nil => simp [findKey]
  | cons y l ih =>
    obtain ⟨hy, hl⟩ := List.pairwise_cons.1 h
    have ih := ih hl
    simp only [findKey, List.find?_cons, List.mem_cons] at ih ⊢
    by_cases hk : key y = k
    · simp only [hk, beq_self_eq_true]
      constructor
      · intro e; cases e; exact ⟨.inl rfl, hk⟩
      · rintro ⟨rfl | hx, e⟩
        · rfl
        · have := hy x hx; omega
    · simp only [beq_eq_false_iff_ne.2 hk, ih]
      constructor
      · rintro ⟨hx, e⟩; exact ⟨.inr hx, e⟩
      · rintro ⟨rfl | hx, e⟩
        · exact absurd e hk
        · exact ⟨hx, e⟩

theorem removeKey_absent {l : List α} {k : Nat} (h : findKey key k l = none) : removeKey key k l = l := by
  simp only [findKey, List.find?_eq_none] at h
  exact List.filter_eq_self.2 fun x hx => by simpa using h x hx

theorem putKey_present {l : List α} (h : Keyed key l) {x : α} (hx : findKey key (key x) l = some x) :
    putKey key x l = l := by
  induction l with
  | nil => simp [findKey] at hx
  | cons y l ih =>
    obtain ⟨hy, hl⟩ := List.pairwise_cons.1 h
    by_cases hk : key y = key x
    · have e : y = x := by simpa [findKey, hk] using hx
      subst e
      have hn : findKey key (key y) l = none := by
        simp only [findKey, List.find?_eq_none]
        intro z hz
        have := hy z hz
        simp; omega
      have hr : removeKey key (key y) (y :: l) = l := by
        show List.filter _ _ = _
        simp only [List.filter_cons, bne_self_eq_false]
        exact removeKey_absent hn
      unfold putKey
      rw [hr]
      cases l with
      | nil => rfl
      | cons z l => simp [insertKey, hy z (by simp)]
    · have hx' : findKey key (key x) l = some x := by simpa [findKey, hk] using hx
      have hm := ((findKey_eq_some hl).1 hx').1
      have hlt := hy x hm
      have := ih hl hx'
      unfold putKey at this ⊢
      have hr : removeKey key (key x) (y :: l) = y :: removeKey key (key x) l := by simp [removeKey, hk]
      rw [hr, insertKey, if_neg (by omega), this]

end Sys2Proof.Machine
end

