-- ==== Sys2Proof/Laws/Memory.lean ====
section
/-! SUPPORT. The laws of the bytes behind the bus: a read after a write, and that a write keeps the canonical form. -/

namespace Sys2Proof.Machine

@[simp] theorem read_write_same (m : Memory) (a : Word) (v : Byte) : (m.write a v).read a = v := by
  unfold Memory.write Memory.read
  by_cases h : v = Memory.unlisted
  · simp [h, findKey_removeKey_same]
  · simp [h, findKey_putKey]

theorem read_write_other (m : Memory) {a b : Word} (v : Byte) (h : b ≠ a) : (m.write a v).read b = m.read b := by
  have hn : b.toNat ≠ a.toNat := fun e => h (BitVec.eq_of_toNat_eq e)
  unfold Memory.write Memory.read
  by_cases hv : v = Memory.unlisted
  · simp [hv, findKey_removeKey_other hn]
  · simp [hv, findKey_putKey, Ne.symm hn]

theorem read_write (m : Memory) (a b : Word) (v : Byte) :
    (m.write a v).read b = if b = a then v else m.read b := by
  split
  · next h => rw [h, read_write_same]
  · next h => exact read_write_other m v h

theorem write_wf {m : Memory} (h : m.wf) (a : Word) (v : Byte) : (m.write a v).wf := by
  unfold Memory.write
  split
  · exact ⟨removeKey_keyed h.1 _, fun c hc => h.2 c (List.mem_filter.1 hc).1⟩
  · next hv =>
    refine ⟨putKey_keyed h.1 _, fun c hc => ?_⟩
    rcases mem_putKey hc with rfl | hc
    · exact ⟨a.isLt, hv⟩
    · exact h.2 c hc

theorem read_empty (a : Word) : Memory.read [] a = Memory.unlisted := rfl

theorem write_read_self {m : Memory} (h : m.wf) (a : Word) : m.write a (m.read a) = m := by
  unfold Memory.write Memory.read
  cases hf : findKey Prod.fst a.toNat m with
  | none => simp [removeKey_absent hf]
  | some c =>
    obtain ⟨hm, hk⟩ := (findKey_eq_some h.1).1 hf
    rw [if_neg (h.2 c hm).2]
    have e : (a.toNat, c.2) = c := by rw [← hk]
    simp only [e]
    exact putKey_present h.1 (by rw [hk]; exact hf)

end Sys2Proof.Machine
end

