-- ==== Sys2Proof/Laws/Bus.lean ====
section
/-! SUPPORT. The laws of the bus: what one access and what a list of requests leave alone on any bus, that RAM answers the
byte last written, and that the canonical form of the bytes is kept. -/

namespace Sys2Proof.Machine

variable (b : Bus) (a : Word)

theorem busRead_eq : busRead b a = (peek b a, (busRead b a).2) := rfl

theorem peek_of_not_device (h : b.target a ≠ .device) : peek b a = b.mem.read a := by
  unfold peek busRead
  split <;> simp_all

theorem busRead_of_not_device (h : b.target a ≠ .device) : busRead b a = (b.mem.read a, b) := by
  unfold busRead
  split <;> simp_all

@[simp] theorem busRead_mem : (busRead b a).2.mem = b.mem := by
  unfold busRead
  split <;> rfl

@[simp] theorem busRead_regions : (busRead b a).2.regions = b.regions := by
  unfold busRead
  split <;> rfl

@[simp] theorem busWrite_regions (v : Byte) : (busWrite b a v).regions = b.regions := by
  unfold busWrite
  split <;> rfl

theorem busWrite_mem (v : Byte) :
    (busWrite b a v).mem = if b.target a = .ram then b.mem.write a v else b.mem := by
  unfold busWrite
  split <;> simp_all

theorem target_congr {b c : Bus} (h : c.regions = b.regions) (a : Word) : c.target a = b.target a := by
  simp only [Bus.target, h]

@[simp] theorem target_mapRam (c : Word) : (b.mapRam c).target a = if a = c then .ram else b.target a := by
  unfold Bus.mapRam Bus.target
  rw [List.find?_cons]
  by_cases h : a = c
  · subst h
    simp
  · have h2 : ¬ (c ≤ a ∧ a ≤ c) := fun e => h (BitVec.le_antisymm e.2 e.1)
    simp only [h2, h, decide_false, if_false]

@[simp] theorem access_read : b.access (.read a) = ⟨.read, a, peek b a⟩ := rfl

@[simp] theorem access_write (v : Byte) : b.access (.write a v) = ⟨.write, a, v⟩ := rfl

@[simp] theorem after_nil : b.after [] = b := rfl

theorem after_cons (q : Request) (l : List Request) : b.after (q :: l) = (b.serve q).after l := rfl

@[simp] theorem after_after (k l : List Request) : (b.after k).after l = b.after (k ++ l) := List.foldl_append.symm

@[simp] theorem busRead_after : (busRead b a).2 = b.after [.read a] := rfl

@[simp] theorem busWrite_after (v : Byte) : busWrite b a v = b.after [.write a v] := rfl

@[simp] theorem accesses_nil : b.accesses [] = [] := rfl

theorem accesses_cons (q : Request) (l : List Request) : b.accesses (q :: l) = b.access q :: (b.serve q).accesses l := rfl

@[simp] theorem accesses_append (k l : List Request) :
    b.accesses (k ++ l) = b.accesses k ++ (b.after k).accesses l := by
  induction k generalizing b with
  | nil => rfl
  | cons q k ih => simp only [List.cons_append, accesses_cons, ih, after_cons]

@[simp] theorem accesses_length (l : List Request) : (b.accesses l).length = l.length := by
  induction l generalizing b with
  | nil => rfl
  | cons q l ih => simp only [accesses_cons, List.length_cons, ih]

@[simp] theorem accesses_eq_nil {b : Bus} {l : List Request} : b.accesses l = [] ↔ l = [] := by
  rw [← List.length_eq_zero_iff, accesses_length, List.length_eq_zero_iff]

@[simp] theorem serve_regions (q : Request) : (b.serve q).regions = b.regions := by
  cases q
  · exact busRead_regions b _
  · exact busWrite_regions b _ _

@[simp] theorem serve_target (q : Request) : (b.serve q).target a = b.target a := target_congr (serve_regions b q) a

@[simp] theorem serve_read_mem : (b.serve (.read a)).mem = b.mem := busRead_mem b a

@[simp] theorem serve_write_mem (v : Byte) :
    (b.serve (.write a v)).mem = if b.target a = .ram then b.mem.write a v else b.mem := busWrite_mem b a v

@[simp] theorem after_regions (l : List Request) : (b.after l).regions = b.regions := by
  induction l generalizing b with
  | nil => rfl
  | cons q l ih => rw [after_cons, ih, serve_regions]

@[simp] theorem after_target (l : List Request) : (b.after l).target a = b.target a := target_congr (after_regions b l) a

/-- Where no device answers, a byte read after requests is the byte behind the bus. -/
theorem peek_after {b : Bus} {a : Word} (h : b.target a ≠ .device) (l : List Request) :
    peek (b.after l) a = (b.after l).mem.read a :=
  peek_of_not_device _ _ (by rwa [after_target])

/-- Requests without a write. -/
abbrev ReadsOnly (l : List Request) : Prop := ∀ q ∈ l, ∃ a, q = .read a

/-- Requests whose writes are to addresses of a list. -/
abbrev WritesOnly (addresses : List Word) (l : List Request) : Prop :=
  ∀ q ∈ l, ∀ a v, q = .write a v → a ∈ addresses

theorem ReadsOnly.writesOnly {l : List Request} (h : ReadsOnly l) : WritesOnly [] l := by
  intro q hq a v e
  obtain ⟨c, hc⟩ := h q hq
  rw [hc] at e
  cases e

/-- A byte that no request writes is kept. -/
theorem after_mem_read {addresses : List Word} {l : List Request} (h : WritesOnly addresses l) (ha : a ∉ addresses) :
    (b.after l).mem.read a = b.mem.read a := by
  induction l generalizing b with
  | nil => rfl
  | cons q l ih =>
    rw [after_cons, ih (b.serve q) fun r hr => h r (by simp [hr])]
    cases q with
    | read c => rw [serve_read_mem]
    | write c v =>
      have hc : c ∈ addresses := h _ (by simp) c v rfl
      have hn : a ≠ c := fun e => ha (e ▸ hc)
      rw [serve_write_mem]
      split
      · exact read_write_other b.mem v hn
      · rfl

theorem after_mem_of_readsOnly {l : List Request} (h : ReadsOnly l) : (b.after l).mem = b.mem := by
  induction l generalizing b with
  | nil => rfl
  | cons q l ih =>
    obtain ⟨a, rfl⟩ := h q (by simp)
    rw [after_cons, ih (b.serve _) fun r hr => h r (by simp [hr]), serve_read_mem]

/-- The writes in a trace are those of the requests. -/
theorem accesses_writes {addresses : List Word} {l : List Request} (h : WritesOnly addresses l) {x : Access} (hx : x ∈ b.accesses l)
    (hk : x.kind = .write) : x.address ∈ addresses := by
  induction l generalizing b with
  | nil => cases hx
  | cons q l ih =>
    rw [accesses_cons, List.mem_cons] at hx
    rcases hx with rfl | hx
    · cases q with
      | read c => cases hk
      | write c v => exact h _ (by simp) c v rfl
    · exact ih (b.serve q) (fun r hr => h r (by simp [hr])) hx

theorem serve_wf {b : Bus} (h : b.mem.wf) (q : Request) : (b.serve q).mem.wf := by
  cases q with
  | read a => rwa [serve_read_mem]
  | write a v =>
    rw [serve_write_mem]
    split
    · exact write_wf h a v
    · exact h

theorem after_wf {b : Bus} (h : b.mem.wf) (l : List Request) : (b.after l).mem.wf := by
  induction l generalizing b with
  | nil => exact h
  | cons q l ih => exact ih (serve_wf h q)

theorem place_wf {b : Bus} (h : b.mem.wf) (a : Word) (bytes : List Byte) : (b.place a bytes).mem.wf := by
  induction bytes generalizing b a with
  | nil => exact h
  | cons v rest ih =>
    refine ih (write_wf ?_ a v) _
    split <;> exact h

end Sys2Proof.Machine
end

