-- ==== Sys2Proof/Laws/Debugger.lean ====
section
/-! SUPPORT. The keys of the Debugger's tables, and what a lookup in a canonical table says. -/

namespace Sys2Proof.Machine

theorem watchKey_eq {w : Watchpoint} {a : Word} {k : WatchAccess} :
    watchKey w = a.toNat * 4 + k.rank ↔ w.address = a ∧ w.access = k := by
  have h1 : w.access.rank < 4 := by cases w.access <;> decide
  have h2 : k.rank < 4 := by cases k <;> decide
  constructor
  · intro h
    unfold watchKey at h
    refine ⟨BitVec.eq_of_toNat_eq (by omega), ?_⟩
    have : w.access.rank = k.rank := by omega
    revert this
    cases w.access <;> cases k <;> simp [WatchAccess.rank]
  · rintro ⟨rfl, rfl⟩; rfl

theorem breakKey_eq {b : Breakpoint} {a : Word} : breakKey b = a.toNat ↔ b.address = a :=
  ⟨fun h => BitVec.eq_of_toNat_eq h, fun h => h ▸ rfl⟩

theorem breakpointAt_eq_some {t : List Breakpoint} (h : Keyed breakKey t) {a : Word} {b : Breakpoint} :
    breakpointAt t a = some b ↔ b ∈ t ∧ b.address = a := by
  unfold breakpointAt
  rw [findKey_eq_some h, breakKey_eq]

theorem watchpointAt_eq_some {t : List Watchpoint} (h : Keyed watchKey t) {a : Word} {k : WatchAccess} {w : Watchpoint} :
    watchpointAt t a k = some w ↔ w ∈ t ∧ w.address = a ∧ w.access = k := by
  unfold watchpointAt
  rw [findKey_eq_some h, watchKey_eq]

end Sys2Proof.Machine
end

