-- ==== Sys2Proof/Laws/Decode.lean ====
section
/-! SUPPORT. The laws of the opcode table: what a row makes of its operand bytes, encoded, is the opcode byte and those
bytes; the opcodes without a row are the undefined set. -/

namespace Sys2Proof

/-- What a row makes of the two bytes after the opcode. -/
def Build.apply (b : Build) (byte1 byte2 : Byte) : Instr :=
  match b with
  | .none i => i
  | .byte f => f byte1
  | .word f => f (Machine.word byte2 byte1)

theorem decodeBytes_some {opcode : Byte} {r : Row} (h : opcodeRow opcode = some r) (byte1 byte2 : Byte) :
    decodeBytes opcode byte1 byte2 = r.build.apply byte1 byte2 := by
  simp only [decodeBytes, h]
  rfl

theorem decodeBytes_none {opcode : Byte} (h : opcodeRow opcode = none) (byte1 byte2 : Byte) :
    decodeBytes opcode byte1 byte2 = .jam opcode := by
  simp only [decodeBytes, h]

theorem instrLength_some {opcode : Byte} {r : Row} (h : opcodeRow opcode = some r) :
    instrLength opcode = r.format.length := by
  simp only [instrLength, h]

theorem instrLength_none {opcode : Byte} (h : opcodeRow opcode = none) : instrLength opcode = 1 := by
  simp only [instrLength, h]
  rfl

/-- The opcode of the row found is the opcode looked for. -/
theorem opcodeRow_opcode {opcode : Byte} {r : Row} (h : opcodeRow opcode = some r) : r.opcode = opcode := by
  have := List.find?_some h
  simpa using this

theorem opcodeRow_mem {opcode : Byte} {r : Row} (h : opcodeRow opcode = some r) : r ∈ opcodeTable :=
  List.mem_of_find?_eq_some h

theorem table_encode : ∀ r ∈ opcodeTable, ∀ byte1 byte2 : Byte,
    encode (r.build.apply byte1 byte2) =
      [r.opcode, Machine.loByte (Machine.word byte2 byte1), Machine.hiByte (Machine.word byte2 byte1)].take
        r.format.length ∨
    encode (r.build.apply byte1 byte2) = [r.opcode, byte1, byte2].take r.format.length := by
  unfold opcodeTable opcodeRowsLoadStore opcodeRowsArith opcodeRowsShift opcodeRowsControl opcodeRowsStack
  repeat' first
    | exact List.forall_mem_nil _
    | refine List.forall_mem_cons.2 ⟨fun _ _ => .inr rfl, ?_⟩
    | refine List.forall_mem_cons.2 ⟨fun _ _ => .inl rfl, ?_⟩

theorem table_wellFormed : ∀ r ∈ opcodeTable, ∀ byte1 byte2 : Byte,
    (r.build.apply byte1 byte2).wellFormed = true := by
  unfold opcodeTable opcodeRowsLoadStore opcodeRowsArith opcodeRowsShift opcodeRowsControl opcodeRowsStack
  repeat' first
    | exact List.forall_mem_nil _
    | refine List.forall_mem_cons.2 ⟨fun _ _ => rfl, ?_⟩

theorem row_encode {opcode : Byte} {r : Row} (h : opcodeRow opcode = some r) (byte1 byte2 : Byte) :
    encode (r.build.apply byte1 byte2) = [opcode, byte1, byte2].take r.format.length := by
  have := table_encode r (opcodeRow_mem h) byte1 byte2
  rw [opcodeRow_opcode h, Machine.loByte_word, Machine.hiByte_word] at this
  exact this.elim id id

/-- The opcodes of the table as numbers. -/
def definedNumbers : List Nat :=
  [169, 165, 181, 173, 189, 185, 161, 177, 162, 166, 182, 174, 190, 160, 164, 180, 172, 188, 133, 149, 141,
   157, 153, 129, 145, 134, 150, 142, 132, 148, 140, 170, 168, 138, 152, 186, 154, 105, 101, 117, 109, 125,
   121, 97, 113, 233, 229, 245, 237, 253] ++
  [249, 225, 241, 41, 37, 53, 45, 61, 57, 33, 49, 9, 5, 21, 13, 29, 25, 1, 17, 73, 69, 85, 77, 93, 89, 65, 81,
   201, 197, 213, 205, 221, 217, 193, 209, 224, 228, 236, 192, 196, 204, 36, 44, 10, 6, 22, 14, 30, 74, 70] ++
  [86, 78, 94, 42, 38, 54, 46, 62, 106, 102, 118, 110, 126, 230, 246, 238, 254, 198, 214, 206, 222, 232, 200,
   202, 136, 76, 108, 32, 96, 144, 176, 240, 208, 48, 16, 80, 112, 0, 64, 72, 8, 104, 40, 24, 56, 88, 120,
   216, 248, 184] ++
  [234]

/-- The undefined set as numbers. -/
def undefinedNumbers : List Nat :=
  [2, 3, 4, 7, 11, 12, 15, 18, 19, 20, 23, 26, 27, 28, 31, 34, 35, 39, 43, 47, 50, 51, 52, 55, 58, 59, 60, 63,
   66, 67, 68, 71, 75, 79, 82, 83, 84, 87, 90, 91, 92, 95, 98, 99, 100, 103, 107, 111, 114, 115] ++
  [116, 119, 122, 123, 124, 127, 128, 130, 131, 135, 137, 139, 143, 146, 147, 151, 155, 156, 158, 159, 163,
   167, 171, 175, 178, 179, 183, 187, 191, 194, 195, 199, 203, 207, 210, 211, 212, 215, 218, 219, 220, 223,
   226, 227, 231, 235, 239, 242, 243, 244] ++
  [247, 250, 251, 252, 255]

theorem definedNumbers_eq : opcodeTable.map (fun r => r.opcode.toNat) = definedNumbers := by rfl

theorem undefinedNumbers_eq : undefinedOpcodes.map BitVec.toNat = undefinedNumbers := by rfl

/-- The bits of a list's numbers set one after another, if each was clear before. -/
def setBits : List Nat → Nat → Option Nat
  | [], m => some m
  | n :: l, m => if m.testBit n then none else setBits l (m ||| 2 ^ n)

theorem setBits_some {l : List Nat} {m k : Nat} (h : setBits l m = some k) :
    (∀ n, k.testBit n = true ↔ m.testBit n = true ∨ n ∈ l) ∧ l.Nodup ∧ ∀ n ∈ l, m.testBit n = false := by
  induction l generalizing m with
  | nil => simp_all [setBits]
  | cons x l ih =>
    unfold setBits at h
    cases hx : m.testBit x with
    | true => simp [hx] at h
    | false =>
      simp only [hx, Bool.false_eq_true, if_false] at h
      obtain ⟨h1, h2, h3⟩ := ih h
      simp only [Nat.testBit_or, Nat.testBit_two_pow, Bool.or_eq_true, decide_eq_true_eq, Bool.or_eq_false_iff,
        decide_eq_false_iff_not] at h1 h3
      refine ⟨fun n => ?_, List.nodup_cons.2 ⟨fun hm => (h3 x hm).2 rfl, h2⟩, fun n hn => ?_⟩
      · rw [h1, List.mem_cons, or_assoc, eq_comm (a := x)]
      · rcases List.mem_cons.1 hn with rfl | hn
        · exact hx
        · exact (h3 n hn).1

/-- The two lists hold every number below 256, each once (30_encoding.md R99). -/
theorem numbers_split : setBits (definedNumbers ++ undefinedNumbers) 0 = some (2 ^ 256 - 1) := by decide +kernel

theorem mem_undefinedOpcodes {opcode : Byte} : opcode ∈ undefinedOpcodes ↔ opcode.toNat ∈ undefinedNumbers := by
  rw [← undefinedNumbers_eq, List.mem_map]
  exact ⟨fun h => ⟨opcode, h, rfl⟩, fun ⟨x, hx, e⟩ => BitVec.eq_of_toNat_eq e ▸ hx⟩

theorem opcodeRow_eq_none_iff {opcode : Byte} : opcodeRow opcode = none ↔ opcode.toNat ∉ definedNumbers := by
  rw [← definedNumbers_eq, List.mem_map, opcodeRow, List.find?_eq_none]
  simp only [beq_iff_eq, BitVec.toNat_inj]
  exact ⟨fun h ⟨r, hr, e⟩ => h r hr e, fun h r hr e => h ⟨r, hr, e⟩⟩

/-- The opcodes without a row are those of 30_encoding.md R97. -/
theorem opcodeRow_eq_none {opcode : Byte} : opcodeRow opcode = none ↔ opcode ∈ undefinedOpcodes := by
  obtain ⟨h1, h2, -⟩ := setBits_some numbers_split
  have h1 := (h1 opcode.toNat).1 (by rw [Nat.testBit_two_pow_sub_one]; exact decide_eq_true opcode.isLt)
  have h2 := (List.nodup_append.1 h2).2.2
  rw [mem_undefinedOpcodes, opcodeRow_eq_none_iff]
  simp only [Nat.zero_testBit, Bool.false_eq_true, List.mem_append, false_or] at h1
  exact ⟨fun h => h1.resolve_left h, fun h hd => h2 _ hd _ h rfl⟩

/-- No two rows have one opcode (30_encoding.md R99). -/
theorem table_nodup : (opcodeTable.map fun r => r.opcode.toNat).Nodup := by
  rw [definedNumbers_eq]
  exact (List.nodup_append.1 (setBits_some numbers_split).2.1).1

/-- The opcodes of the table as numbers, with their lengths. -/
def lengthNumbers : List (Nat × Nat) :=
  [(169, 2), (165, 2), (181, 2), (173, 3), (189, 3), (185, 3), (161, 2), (177, 2), (162, 2), (166, 2),
   (182, 2), (174, 3), (190, 3), (160, 2), (164, 2), (180, 2), (172, 3), (188, 3), (133, 2), (149, 2),
   (141, 3), (157, 3), (153, 3), (129, 2), (145, 2), (134, 2), (150, 2), (142, 3), (132, 2), (148, 2),
   (140, 3), (170, 1), (168, 1), (138, 1), (152, 1), (186, 1), (154, 1), (105, 2), (101, 2), (117, 2)] ++
  [(109, 3), (125, 3), (121, 3), (97, 2), (113, 2), (233, 2), (229, 2), (245, 2), (237, 3), (253, 3),
   (249, 3), (225, 2), (241, 2), (41, 2), (37, 2), (53, 2), (45, 3), (61, 3), (57, 3), (33, 2), (49, 2),
   (9, 2), (5, 2), (21, 2), (13, 3), (29, 3), (25, 3), (1, 2), (17, 2), (73, 2), (69, 2), (85, 2), (77, 3),
   (93, 3), (89, 3), (65, 2), (81, 2), (201, 2), (197, 2), (213, 2)] ++
  [(205, 3), (221, 3), (217, 3), (193, 2), (209, 2), (224, 2), (228, 2), (236, 3), (192, 2), (196, 2),
   (204, 3), (36, 2), (44, 3), (10, 1), (6, 2), (22, 2), (14, 3), (30, 3), (74, 1), (70, 2), (86, 2), (78, 3),
   (94, 3), (42, 1), (38, 2), (54, 2), (46, 3), (62, 3), (106, 1), (102, 2), (118, 2), (110, 3), (126, 3),
   (230, 2), (246, 2), (238, 3), (254, 3), (198, 2), (214, 2), (206, 3)] ++
  [(222, 3), (232, 1), (200, 1), (202, 1), (136, 1), (76, 3), (108, 3), (32, 3), (96, 1), (144, 2), (176, 2),
   (240, 2), (208, 2), (48, 2), (16, 2), (80, 2), (112, 2), (0, 1), (64, 1), (72, 1), (8, 1), (104, 1),
   (40, 1), (24, 1), (56, 1), (88, 1), (120, 1), (216, 1), (248, 1), (184, 1), (234, 1)]

theorem lengthNumbers_eq : opcodeTable.map (fun r => (r.opcode.toNat, r.format.length)) = lengthNumbers := by rfl

/-- The length of an opcode, looked up among numbers. -/
theorem instrLength_eq (opcode : Byte) :
    instrLength opcode = ((lengthNumbers.find? fun x => x.1 == opcode.toNat).map Prod.snd).getD 1 := by
  have e : ∀ r : Row, (r.opcode.toNat == opcode.toNat) = (r.opcode == opcode) := fun r => by
    rw [Bool.eq_iff_iff, beq_iff_eq, beq_iff_eq, BitVec.toNat_inj]
  rw [← lengthNumbers_eq, List.find?_map]
  simp only [Function.comp_def, e]
  unfold instrLength opcodeRow
  cases opcodeTable.find? _ <;> rfl

/-- The opcodes of the table as numbers, with their base cycles. -/
def cycleNumbers : List (Nat × Nat) :=
  [(169, 2), (165, 3), (181, 4), (173, 4), (189, 4), (185, 4), (161, 6), (177, 5), (162, 2), (166, 3),
   (182, 4), (174, 4), (190, 4), (160, 2), (164, 3), (180, 4), (172, 4), (188, 4), (133, 3), (149, 4),
   (141, 4), (157, 5), (153, 5), (129, 6), (145, 6), (134, 3), (150, 4), (142, 4), (132, 3), (148, 4),
   (140, 4), (170, 2), (168, 2), (138, 2), (152, 2), (186, 2), (154, 2), (105, 2), (101, 3), (117, 4)] ++
  [(109, 4), (125, 4), (121, 4), (97, 6), (113, 5), (233, 2), (229, 3), (245, 4), (237, 4), (253, 4),
   (249, 4), (225, 6), (241, 5), (41, 2), (37, 3), (53, 4), (45, 4), (61, 4), (57, 4), (33, 6), (49, 5),
   (9, 2), (5, 3), (21, 4), (13, 4), (29, 4), (25, 4), (1, 6), (17, 5), (73, 2), (69, 3), (85, 4), (77, 4),
   (93, 4), (89, 4), (65, 6), (81, 5), (201, 2), (197, 3), (213, 4)] ++
  [(205, 4), (221, 4), (217, 4), (193, 6), (209, 5), (224, 2), (228, 3), (236, 4), (192, 2), (196, 3),
   (204, 4), (36, 3), (44, 4), (10, 2), (6, 5), (22, 6), (14, 6), (30, 7), (74, 2), (70, 5), (86, 6), (78, 6),
   (94, 7), (42, 2), (38, 5), (54, 6), (46, 6), (62, 7), (106, 2), (102, 5), (118, 6), (110, 6), (126, 7),
   (230, 5), (246, 6), (238, 6), (254, 7), (198, 5), (214, 6), (206, 6)] ++
  [(222, 7), (232, 2), (200, 2), (202, 2), (136, 2), (76, 3), (108, 5), (32, 6), (96, 6), (144, 2), (176, 2),
   (240, 2), (208, 2), (48, 2), (16, 2), (80, 2), (112, 2), (0, 7), (64, 6), (72, 3), (8, 3), (104, 4),
   (40, 4), (24, 2), (56, 2), (88, 2), (120, 2), (216, 2), (248, 2), (184, 2), (234, 2)]

theorem cycleNumbers_eq : opcodeTable.map (fun r => (r.opcode.toNat, r.cycles)) = cycleNumbers := by rfl

/-- The base cycles of an opcode, looked up among numbers; 1 where there is no row. -/
theorem rowCycles_eq (opcode : Byte) :
    (opcodeRow opcode).elim 1 Row.cycles =
      ((cycleNumbers.find? fun x => x.1 == opcode.toNat).map Prod.snd).getD 1 := by
  have e : ∀ r : Row, (r.opcode.toNat == opcode.toNat) = (r.opcode == opcode) := fun r => by
    rw [Bool.eq_iff_iff, beq_iff_eq, beq_iff_eq, BitVec.toNat_inj]
  rw [← cycleNumbers_eq, List.find?_map]
  simp only [Function.comp_def, e]
  unfold opcodeRow
  cases opcodeTable.find? _ <;> rfl

/-- The length of a format is 1, 2 or 3. -/
theorem format_length (f : Format) : f.length = 1 ∨ f.length = 2 ∨ f.length = 3 := by
  cases f <;> simp [Format.length]

end Sys2Proof
end

