-- ==== Sys2Proof/Laws/State.lean ====
section
/-! SUPPORT. One lemma for each field and each update of the state, and the algebra of the two updates every meaning is
made of: `mapCpu` and `perform`. -/

namespace Sys2Proof.Machine

variable (s : State) (f : ProcessorState → ProcessorState) (l : List Request)

@[simp] theorem mapCpu_cpu : (s.mapCpu f).cpu = f s.cpu := rfl
@[simp] theorem mapCpu_cycles : (s.mapCpu f).cycles = s.cycles := rfl
@[simp] theorem mapCpu_nmiPrev : (s.mapCpu f).nmiPrev = s.nmiPrev := rfl
@[simp] theorem mapCpu_nmiPending : (s.mapCpu f).nmiPending = s.nmiPending := rfl
@[simp] theorem mapCpu_bpSkip : (s.mapCpu f).bpSkip = s.bpSkip := rfl
@[simp] theorem mapCpu_bps : (s.mapCpu f).bps = s.bps := rfl
@[simp] theorem mapCpu_wps : (s.mapCpu f).wps = s.wps := rfl
@[simp] theorem mapCpu_bus : (s.mapCpu f).bus = s.bus := rfl
@[simp] theorem mapCpu_irqLine : (s.mapCpu f).irqLine = s.irqLine := rfl
@[simp] theorem mapCpu_nmiLine : (s.mapCpu f).nmiLine = s.nmiLine := rfl
@[simp] theorem mapCpu_watchHit : (s.mapCpu f).watchHit = s.watchHit := rfl
@[simp] theorem mapCpu_outcome : (s.mapCpu f).outcome = s.outcome := rfl
@[simp] theorem mapCpu_trace : (s.mapCpu f).trace = s.trace := rfl
@[simp] theorem mapCpu_stepArmed : (s.mapCpu f).stepArmed = s.stepArmed := rfl

@[simp] theorem perform_cpu : (s.perform l).cpu = s.cpu := rfl
@[simp] theorem perform_cycles : (s.perform l).cycles = s.cycles + l.length := rfl
@[simp] theorem perform_nmiPrev : (s.perform l).nmiPrev = s.nmiPrev := rfl
@[simp] theorem perform_nmiPending : (s.perform l).nmiPending = s.nmiPending := rfl
@[simp] theorem perform_bpSkip : (s.perform l).bpSkip = s.bpSkip := rfl
@[simp] theorem perform_bps : (s.perform l).bps = s.bps := rfl
@[simp] theorem perform_wps : (s.perform l).wps = s.wps := rfl
@[simp] theorem perform_bus : (s.perform l).bus = s.bus.after l := rfl
@[simp] theorem perform_irqLine : (s.perform l).irqLine = s.irqLine := rfl
@[simp] theorem perform_nmiLine : (s.perform l).nmiLine = s.nmiLine := rfl
@[simp] theorem perform_watchHit : (s.perform l).watchHit = s.watchHit.or (firstMatch s.wps (s.bus.accesses l)) := rfl
@[simp] theorem perform_outcome : (s.perform l).outcome = s.outcome := rfl
@[simp] theorem perform_trace : (s.perform l).trace = s.trace ++ s.bus.accesses l := rfl
@[simp] theorem perform_stepArmed : (s.perform l).stepArmed = s.stepArmed := rfl

@[simp] theorem beginStep_cpu : (beginStep s).cpu = s.cpu := rfl
@[simp] theorem beginStep_cycles : (beginStep s).cycles = s.cycles := rfl
@[simp] theorem beginStep_nmiPrev : (beginStep s).nmiPrev = s.nmiPrev := rfl
@[simp] theorem beginStep_nmiPending : (beginStep s).nmiPending = s.nmiPending := rfl
@[simp] theorem beginStep_bpSkip : (beginStep s).bpSkip = s.bpSkip := rfl
@[simp] theorem beginStep_bps : (beginStep s).bps = s.bps := rfl
@[simp] theorem beginStep_wps : (beginStep s).wps = s.wps := rfl
@[simp] theorem beginStep_bus : (beginStep s).bus = s.bus := rfl
@[simp] theorem beginStep_irqLine : (beginStep s).irqLine = s.irqLine := rfl
@[simp] theorem beginStep_nmiLine : (beginStep s).nmiLine = s.nmiLine := rfl
@[simp] theorem beginStep_watchHit : (beginStep s).watchHit = none := rfl
@[simp] theorem beginStep_outcome : (beginStep s).outcome = s.outcome := rfl
@[simp] theorem beginStep_trace : (beginStep s).trace = [] := rfl
@[simp] theorem beginStep_stepArmed : (beginStep s).stepArmed = s.stepArmed := rfl

@[simp] theorem sampleLines_cpu : (sampleLines s).cpu = s.cpu := rfl
@[simp] theorem sampleLines_cycles : (sampleLines s).cycles = s.cycles := rfl
@[simp] theorem sampleLines_nmiPrev : (sampleLines s).nmiPrev = s.nmiLine := rfl
@[simp] theorem sampleLines_nmiPending : (sampleLines s).nmiPending = (s.nmiPending || (s.nmiLine && !s.nmiPrev)) := rfl
@[simp] theorem sampleLines_bpSkip : (sampleLines s).bpSkip = s.bpSkip := rfl
@[simp] theorem sampleLines_bps : (sampleLines s).bps = s.bps := rfl
@[simp] theorem sampleLines_wps : (sampleLines s).wps = s.wps := rfl
@[simp] theorem sampleLines_bus : (sampleLines s).bus = s.bus := rfl
@[simp] theorem sampleLines_irqLine : (sampleLines s).irqLine = s.irqLine := rfl
@[simp] theorem sampleLines_nmiLine : (sampleLines s).nmiLine = s.nmiLine := rfl
@[simp] theorem sampleLines_watchHit : (sampleLines s).watchHit = s.watchHit := rfl
@[simp] theorem sampleLines_outcome : (sampleLines s).outcome = s.outcome := rfl
@[simp] theorem sampleLines_trace : (sampleLines s).trace = s.trace := rfl
@[simp] theorem sampleLines_stepArmed : (sampleLines s).stepArmed = s.stepArmed := rfl

@[simp] theorem breakpointTrap_cpu : (breakpointTrap s).cpu = s.cpu := rfl
@[simp] theorem breakpointTrap_cycles : (breakpointTrap s).cycles = s.cycles := rfl
@[simp] theorem breakpointTrap_nmiPrev : (breakpointTrap s).nmiPrev = s.nmiPrev := rfl
@[simp] theorem breakpointTrap_nmiPending : (breakpointTrap s).nmiPending = s.nmiPending := rfl
@[simp] theorem breakpointTrap_bpSkip : (breakpointTrap s).bpSkip = some s.cpu.pc := rfl
@[simp] theorem breakpointTrap_bps : (breakpointTrap s).bps = s.bps := rfl
@[simp] theorem breakpointTrap_wps : (breakpointTrap s).wps = s.wps := rfl
@[simp] theorem breakpointTrap_bus : (breakpointTrap s).bus = s.bus := rfl
@[simp] theorem breakpointTrap_irqLine : (breakpointTrap s).irqLine = s.irqLine := rfl
@[simp] theorem breakpointTrap_nmiLine : (breakpointTrap s).nmiLine = s.nmiLine := rfl
@[simp] theorem breakpointTrap_watchHit : (breakpointTrap s).watchHit = s.watchHit := rfl
@[simp] theorem breakpointTrap_outcome : (breakpointTrap s).outcome = some (.trapped ⟨s.cpu.pc, .breakpoint, s.cpu⟩) := rfl
@[simp] theorem breakpointTrap_trace : (breakpointTrap s).trace = s.trace := rfl
@[simp] theorem breakpointTrap_stepArmed : (breakpointTrap s).stepArmed = s.stepArmed := rfl

@[simp] theorem jammedStep_cpu : (jammedStep s).cpu = s.cpu := rfl
@[simp] theorem jammedStep_cycles : (jammedStep s).cycles = s.cycles := rfl
@[simp] theorem jammedStep_nmiPrev : (jammedStep s).nmiPrev = s.nmiPrev := rfl
@[simp] theorem jammedStep_nmiPending : (jammedStep s).nmiPending = s.nmiPending := rfl
@[simp] theorem jammedStep_bpSkip : (jammedStep s).bpSkip = s.bpSkip := rfl
@[simp] theorem jammedStep_bps : (jammedStep s).bps = s.bps := rfl
@[simp] theorem jammedStep_wps : (jammedStep s).wps = s.wps := rfl
@[simp] theorem jammedStep_bus : (jammedStep s).bus = s.bus := rfl
@[simp] theorem jammedStep_irqLine : (jammedStep s).irqLine = s.irqLine := rfl
@[simp] theorem jammedStep_nmiLine : (jammedStep s).nmiLine = s.nmiLine := rfl
@[simp] theorem jammedStep_watchHit : (jammedStep s).watchHit = s.watchHit := rfl
@[simp] theorem jammedStep_outcome : (jammedStep s).outcome = some .jammed := rfl
@[simp] theorem jammedStep_trace : (jammedStep s).trace = [] := rfl
@[simp] theorem jammedStep_stepArmed : (jammedStep s).stepArmed = s.stepArmed := rfl

@[simp] theorem finish_cpu : (finish s).cpu = s.cpu := rfl
@[simp] theorem finish_cycles : (finish s).cycles = s.cycles := rfl
@[simp] theorem finish_nmiPrev : (finish s).nmiPrev = s.nmiPrev := rfl
@[simp] theorem finish_nmiPending : (finish s).nmiPending = s.nmiPending := rfl
@[simp] theorem finish_bpSkip : (finish s).bpSkip = s.bpSkip := rfl
@[simp] theorem finish_bps : (finish s).bps = s.bps := rfl
@[simp] theorem finish_wps : (finish s).wps = s.wps := rfl
@[simp] theorem finish_bus : (finish s).bus = s.bus := rfl
@[simp] theorem finish_irqLine : (finish s).irqLine = s.irqLine := rfl
@[simp] theorem finish_nmiLine : (finish s).nmiLine = s.nmiLine := rfl
@[simp] theorem finish_watchHit : (finish s).watchHit = s.watchHit := rfl
@[simp] theorem finish_trace : (finish s).trace = s.trace := rfl
@[simp] theorem finish_stepArmed : (finish s).stepArmed = s.stepArmed := rfl

@[simp] theorem mapCpu_mapCpu (g : ProcessorState → ProcessorState) :
    (s.mapCpu f).mapCpu g = s.mapCpu fun c => g (f c) := rfl

/-- Two changes of ProcessorState that agree on this state's registers are one change. -/
theorem mapCpu_congr {s : State} {f g : ProcessorState → ProcessorState} (h : f s.cpu = g s.cpu) :
    s.mapCpu f = s.mapCpu g := by
  simp only [State.mapCpu, h]

@[simp] theorem mapCpu_perform : (s.mapCpu f).perform l = (s.perform l).mapCpu f := rfl

@[simp] theorem firstMatch_nil (t : List Watchpoint) : firstMatch t [] = none := rfl

theorem firstMatch_append (t : List Watchpoint) (k l : List Access) :
    firstMatch t (k ++ l) = (firstMatch t k).or (firstMatch t l) := by
  simp only [firstMatch, List.find?_append]
  cases List.find? _ k <;> rfl

@[simp] theorem perform_nil : s.perform [] = s := by
  simp [State.perform]

@[simp] theorem perform_perform (k : List Request) : (s.perform k).perform l = s.perform (k ++ l) := by
  simp [State.perform, firstMatch_append, Option.or_assoc, Nat.add_assoc]

/-- What requests leave alone, said in the terms of the frame statements. -/
theorem perform_wroteOnly {addresses : List Word} {l : List Request} (h : WritesOnly addresses l) (s : State)
    (f : ProcessorState → ProcessorState) : WroteOnly addresses s ((s.perform l).mapCpu f) := by
  refine ⟨⟨_, rfl, fun x hx hk => accesses_writes s.bus h hx hk⟩, after_regions s.bus l, fun a ha => ?_⟩
  have hm := after_mem_read s.bus a h ha
  refine ⟨hm, fun hd => ?_⟩
  rw [mapCpu_bus, perform_bus, peek_after hd, hm, peek_of_not_device s.bus a hd]

end Sys2Proof.Machine
end

