-- ==== Sys2Proof/Laws/Ops.lean ====
section
/-! SUPPORT. What each shared operation of Ops.lean does, said once: an access list performed and a ProcessorState
changed. Later proofs cite these and do not unfold the operations. -/

namespace Sys2Proof.Machine

variable (s : State)

theorem observe_eq (x : Access) :
    s.observe x =
      { s with
        cycles := s.cycles + 1, trace := s.trace ++ [x]
        watchHit := s.watchHit.or (firstMatch s.wps [x]) } := by
  simp only [State.observe, State.watch, firstMatch, List.find?_cons, List.find?_nil]
  cases hw : s.watchHit with
  | some a => simp
  | none => cases checkAccess s.wps x.address x.kind <;> simp

@[simp] theorem memRead_eq (a : Word) : memRead a s = (peek s.bus a, s.perform [.read a]) := by
  simp only [memRead, observe_eq]
  rfl

@[simp] theorem memWrite_eq (a : Word) (v : Byte) : memWrite a v s = s.perform [.write a v] := by
  simp only [memWrite, observe_eq]
  rfl

@[simp] theorem touch_eq (a : Word) : touch a s = s.perform [.read a] := by simp [touch]

@[simp] theorem incPc_eq : incPc s = s.mapCpu fun c => { c with pc := c.pc + 1 } := rfl

@[simp] theorem fetch_eq :
    fetch s = (peek s.bus s.cpu.pc, (s.perform [.read s.cpu.pc]).mapCpu fun c => { c with pc := c.pc + 1 }) := by
  simp [fetch]

@[simp] theorem fetchOperand_eq :
    fetchOperand s = (s.perform [.read s.cpu.pc]).mapCpu fun c => { c with pc := c.pc + 1 } := by
  simp [fetchOperand]

@[simp] theorem dummyFetch_eq : dummyFetch s = s.perform [.read s.cpu.pc] := by simp [dummyFetch]

@[simp] theorem push_eq (v : Byte) :
    push v s = (s.perform [.write (stackAddress s.cpu.sp) v]).mapCpu fun c => { c with sp := c.sp - 1 } := by
  simp [push]

@[simp] theorem pull_eq :
    pull s = (peek s.bus (stackAddress (s.cpu.sp + 1)),
      (s.perform [.read (stackAddress (s.cpu.sp + 1))]).mapCpu fun c => { c with sp := c.sp + 1 }) := by
  simp [pull]

@[simp] theorem dummyStack_eq : dummyStack s = s.perform [.read (stackAddress s.cpu.sp)] := by simp [dummyStack]

@[simp] theorem jumpVector_eq (vec : Word) :
    jumpVector vec s = (s.perform [.read vec, .read (vec + 1)]).mapCpu fun c =>
      { c with pc := vectorWord [] vec s } := by
  simp [jumpVector, vectorWord, State.answer]

theorem stackBelow_zero : stackAddress s.cpu.sp = stackBelow s 0 := by
  apply BitVec.eq_of_toNat_eq
  have := s.cpu.sp.isLt
  simp only [toNat_stackAddress, stackBelow, BitVec.toNat_ofNat]
  omega

theorem stackBelow_one : stackAddress (s.cpu.sp - 1#8) = stackBelow s 1 := by
  apply BitVec.eq_of_toNat_eq
  have := s.cpu.sp.isLt
  simp only [toNat_stackAddress, stackBelow, BitVec.toNat_ofNat, BitVec.toNat_sub]
  omega

theorem stackBelow_two : stackAddress (s.cpu.sp - 1#8 - 1#8) = stackBelow s 2 := by
  apply BitVec.eq_of_toNat_eq
  have := s.cpu.sp.isLt
  simp only [toNat_stackAddress, stackBelow, BitVec.toNat_ofNat, BitVec.toNat_sub]
  omega

theorem stackAbove_zero : stackAddress s.cpu.sp = stackAbove s 0 := by
  apply BitVec.eq_of_toNat_eq
  have := s.cpu.sp.isLt
  simp only [toNat_stackAddress, stackAbove, BitVec.toNat_ofNat]
  omega

theorem stackAbove_one : stackAddress (s.cpu.sp + 1#8) = stackAbove s 1 := by
  apply BitVec.eq_of_toNat_eq
  have := s.cpu.sp.isLt
  simp only [toNat_stackAddress, stackAbove, BitVec.toNat_ofNat, BitVec.toNat_add]
  omega

theorem stackAbove_two : stackAddress (s.cpu.sp + 1#8 + 1#8) = stackAbove s 2 := by
  apply BitVec.eq_of_toNat_eq
  have := s.cpu.sp.isLt
  simp only [toNat_stackAddress, stackAbove, BitVec.toNat_ofNat, BitVec.toNat_add]
  omega

theorem stackAbove_three : stackAddress (s.cpu.sp + 1#8 + 1#8 + 1#8) = stackAbove s 3 := by
  apply BitVec.eq_of_toNat_eq
  have := s.cpu.sp.isLt
  simp only [toNat_stackAddress, stackAbove, BitVec.toNat_ofNat, BitVec.toNat_add]
  omega

theorem spMinus_one : s.cpu.sp - 1#8 = spMinus s 1 := by
  apply BitVec.eq_of_toNat_eq
  have := s.cpu.sp.isLt
  simp only [spMinus, BitVec.toNat_ofNat, BitVec.toNat_sub]
  omega

theorem spMinus_two : s.cpu.sp - 1#8 - 1#8 = spMinus s 2 := by
  apply BitVec.eq_of_toNat_eq
  have := s.cpu.sp.isLt
  simp only [spMinus, BitVec.toNat_ofNat, BitVec.toNat_sub]
  omega

theorem spMinus_three : s.cpu.sp - 1#8 - 1#8 - 1#8 = spMinus s 3 := by
  apply BitVec.eq_of_toNat_eq
  have := s.cpu.sp.isLt
  simp only [spMinus, BitVec.toNat_ofNat, BitVec.toNat_sub]
  omega

theorem spPlus_one : s.cpu.sp + 1#8 = spPlus s 1 := by
  apply BitVec.eq_of_toNat_eq
  simp only [spPlus, BitVec.toNat_ofNat, BitVec.toNat_add]

theorem spPlus_two : s.cpu.sp + 1#8 + 1#8 = spPlus s 2 := by
  apply BitVec.eq_of_toNat_eq
  simp only [spPlus, BitVec.toNat_ofNat, BitVec.toNat_add]
  omega

theorem spPlus_three : s.cpu.sp + 1#8 + 1#8 + 1#8 = spPlus s 3 := by
  apply BitVec.eq_of_toNat_eq
  simp only [spPlus, BitVec.toNat_ofNat, BitVec.toNat_add]
  omega

/-- Two pushes in a row write two bytes. -/
theorem stackAddress_ne_one (sp : Byte) : stackAddress sp ≠ stackAddress (sp - 1#8) := by
  intro h
  have := congrArg BitVec.toNat h
  have := sp.isLt
  simp only [toNat_stackAddress, BitVec.toNat_sub, BitVec.toNat_ofNat] at *
  omega

theorem stackAddress_ne_two (sp : Byte) : stackAddress sp ≠ stackAddress (sp - 1#8 - 1#8) := by
  intro h
  have := congrArg BitVec.toNat h
  have := sp.isLt
  simp only [toNat_stackAddress, BitVec.toNat_sub, BitVec.toNat_ofNat] at *
  omega

/-- Taking an exception, on any bus. -/
theorem takeException_eq (b : Bool) (vec : Word) :
    takeException b vec s = s.afterEntry (entryPushes b s.cpu.pc s) vec := by
  simp [takeException, State.afterEntry, entryPushes, vectorWord, State.answer, stackBelow_zero, stackBelow_one,
    stackBelow_two]
  exact mapCpu_congr (by simp [spMinus_three])

/-- An interrupt sequence in the terms of Safety.lean. -/
theorem interruptSequence_after (vec : Word) : interruptSequence vec s = s.afterInterrupt vec := by
  simp [interruptSequence, takeException_eq, State.afterInterrupt, State.afterEntry, interruptPushes, entryPushes,
    vectorWord, State.answer, stackBelow, spMinus]

/-- Returning from an exception, on any bus. -/
@[simp] theorem returnFromException_eq :
    returnFromException s =
      (s.perform [.read (stackAbove s 1), .read (stackAbove s 2), .read (stackAbove s 3)]).mapCpu fun c =>
      { c with
        sp := spPlus s 3
        p := unpackP (s.answer [] (stackAbove s 1)) c.p
        pc := word (s.answer [.read (stackAbove s 1), .read (stackAbove s 2)] (stackAbove s 3))
          (s.answer [.read (stackAbove s 1)] (stackAbove s 2)) } := by
  simp [returnFromException, State.answer, stackAbove_one, stackAbove_two, stackAbove_three]
  exact mapCpu_congr (by simp [spPlus_three])

end Sys2Proof.Machine
end

