-- ==== Sys2Proof/Laws/Operands.lean ====
section
/-! SUPPORT. Address resolution and the three operand classes, each as the access list and the ProcessorState change of
Safety.lean's pure functions. -/

namespace Sys2Proof.Machine

variable (s : State)

theorem zext16_eq (z : Byte) : zext16 z = zeroPage z.toNat := by
  apply BitVec.eq_of_toNat_eq
  have := z.isLt
  rw [toNat_zext16, zeroPage, BitVec.toNat_ofNat]
  omega

theorem zext16_add_eq (z x : Byte) : zext16 (z + x) = zeroPage (z.toNat + x.toNat) := by
  apply BitVec.eq_of_toNat_eq
  rw [toNat_zext16, zeroPage, BitVec.toNat_ofNat, BitVec.toNat_add]
  omega

theorem zext16_succ_eq (z : Byte) : zext16 (z + 1) = zeroPage (z.toNat + 1) := zext16_add_eq z 1

theorem zext16_add_succ_eq (z x : Byte) : zext16 (z + x + 1) = zeroPage (z.toNat + x.toNat + 1) := by
  have h1 : (1#8).toNat = 1 := rfl
  rw [show z + x + 1 = z + x + 1#8 from rfl, zext16_add_eq, BitVec.toNat_add, h1]
  simp [zeroPage]

theorem word_eq (h l : Byte) : word h l = BitVec.ofNat 16 (l.toNat + 256 * h.toNat) := by
  apply BitVec.eq_of_toNat_eq
  have := l.isLt
  have := h.isLt
  rw [toNat_word, BitVec.toNat_ofNat]
  omega

theorem add_zext16_eq (w : Word) (x : Byte) : w + zext16 x = BitVec.ofNat 16 (w.toNat + x.toNat) := by
  apply BitVec.eq_of_toNat_eq
  rw [BitVec.toNat_add, toNat_zext16, BitVec.toNat_ofNat]

/-- `early` of a base and an index. -/
theorem early_eq (w : Word) (x : Byte) :
    word (hiByte w) (loByte w + x) =
      BitVec.ofNat 16 (w.toNat / 256 * 256 + (w.toNat % 256 + x.toNat) % 256) := by
  apply BitVec.eq_of_toNat_eq
  have := w.isLt
  rw [toNat_word, toNat_hiByte, BitVec.toNat_add, toNat_loByte, BitVec.toNat_ofNat]
  omega

@[simp] theorem zeroPage_mod (n : Nat) : zeroPage (n % 256) = zeroPage n := by simp [zeroPage]

@[simp] theorem zeroPage_mod_succ (n : Nat) : zeroPage (n % 256 + 1) = zeroPage (n + 1) := by simp [zeroPage]

@[simp] theorem zeroPageWord_mod (b : Bus) (n : Nat) : zeroPageWord b (n % 256) = zeroPageWord b n := by
  simp [zeroPageWord]

/-- What address resolution answers. -/
def resolved (m : Mode) (s : State) : Resolved := ⟨effectiveAddress m s, earlyAddress m s, pageCrossed m s⟩

theorem zeroPagePointer_eq (p : Byte) :
    zeroPagePointer p s =
      (zeroPageWord s.bus p.toNat, s.perform [.read (zeroPage p.toNat), .read (zeroPage (p.toNat + 1))]) := by
  have h : zext16 (p + 1#8) = zeroPage (p.toNat + 1) := zext16_succ_eq p
  simp [zeroPagePointer, zext16_eq p, h, word_eq, zeroPageWord]

theorem resolve_eq (m : Mode) :
    m.resolve s = (resolved m s,
      (s.perform (addressRequests m s)).mapCpu fun c => { c with pc := c.pc + BitVec.ofNat 16 m.bytes.length }) := by
  have e2 (c : Word) : c + 1#16 + 1#16 = c + 2#16 := by rw [BitVec.add_assoc]; rfl
  have hx (w : Word) (x : Byte) : w + zeroPage x.toNat = BitVec.ofNat 16 (w.toNat + x.toNat) := by
    rw [← zext16_eq, add_zext16_eq]
  cases m with
  | indx z =>
    simp [Mode.resolve, zeroPagePointer_eq, resolved, effectiveAddress, earlyAddress, pageCrossed, indexBase,
      addressRequests, Mode.bytes, direct, zext16_eq, indxPointer]
  | indy z =>
    simp [Mode.resolve, zeroPagePointer_eq, resolved, effectiveAddress, earlyAddress, pageCrossed, indexBase,
      addressRequests, Mode.bytes, indexed, hx, early_eq, toNat_loByte, indyPointer, zext16_eq]
  | _ =>
    simp [Mode.resolve, resolved, effectiveAddress, earlyAddress, pageCrossed, indexBase, addressRequests, Mode.bytes,
      direct, indexed, zext16_eq, hx, early_eq, toNat_loByte, e2]

theorem addressRequests_readsOnly (m : Mode) : ReadsOnly (addressRequests m s) := by
  cases m <;> simp [ReadsOnly, addressRequests]

theorem earlyRequests_readsOnly (m : Mode) : ReadsOnly (earlyRequests m s) := by
  unfold earlyRequests
  cases earlyAddress m s <;> simp [ReadsOnly]

theorem touchEarly_eq (m : Mode) (t : State) : touchEarly (resolved m s) t = t.perform (earlyRequests m s) := by
  simp only [touchEarly, resolved, earlyRequests]
  cases earlyAddress m s <;> simp

/-- `loadOperand`: the operand byte, its accesses, and `PC` past the operand bytes. -/
theorem loadOperand_eq (src : Source) :
    loadOperand src s = (operandByte src s,
      (s.perform (readRequests src s)).mapCpu fun c => { c with pc := c.pc + src.size }) := by
  cases src with
  | imm v => simp [loadOperand, operandByte, readRequests, Source.size, Source.bytes]
  | mem m =>
    simp only [loadOperand, resolve_eq, touchEarly_eq]
    by_cases hc : pageCrossed m s = true
    · simp [resolved, hc, operandByte, readRequests, loadRequests, Source.size, Source.bytes]
    · simp [resolved, hc, operandByte, readRequests, loadRequests, Source.size, Source.bytes]

/-- `storeOperand`: its accesses, and `PC` past the operand bytes. -/
theorem storeOperand_eq (m : Mode) (v : Byte) :
    storeOperand m v s =
      (s.perform (writeRequests m v s)).mapCpu fun c => { c with pc := c.pc + BitVec.ofNat 16 m.bytes.length } := by
  simp only [storeOperand, resolve_eq, touchEarly_eq]
  simp [resolved, writeRequests, storeRequests]

/-- `modifyOperand`: its accesses, the new flags, and `PC` past the operand bytes. -/
theorem modifyOperand_eq (m : Mode) (f : Byte → Flags → Byte × Flags) :
    modifyOperand m f s =
      (s.perform (modifyRequests m (f (modifiedByte m s) s.cpu.p).1 s)).mapCpu fun c =>
        { c with pc := c.pc + BitVec.ofNat 16 m.bytes.length, p := (f (modifiedByte m s) s.cpu.p).2 } := by
  simp only [modifyOperand, resolve_eq, touchEarly_eq]
  simp [resolved, modifyRequests, storeRequests, modifiedByte]

theorem implied_eq (f : ProcessorState → ProcessorState) :
    implied f s = (s.perform [.read s.cpu.pc]).mapCpu f := by
  simp [implied]

theorem modifyAccumulator_eq (f : Byte → Flags → Byte × Flags) :
    modifyAccumulator f s =
      (s.perform [.read s.cpu.pc]).mapCpu fun c => { c with a := (f c.a c.p).1, p := (f c.a c.p).2 } := by
  simp [modifyAccumulator]

end Sys2Proof.Machine
end

