-- ==== Sys2Proof/Laws/Exec.lean ====
section
/-! SUPPORT. What each operation of the instruction families does, as a list of requests and a ProcessorState change, and the
one shape every instruction has: `exec_uniform` says once everything an instruction can do. -/

namespace Sys2Proof.Machine

variable (s : State)

theorem branchTarget_eq (rel8 : Byte) : s.cpu.pc + 1 + sext16 rel8 = branchTarget rel8 s := by
  simp only [branchTarget, sext16, BitVec.signExtend, BitVec.ofInt_add]
  simp

theorem branch_eq (cond : Bool) (rel8 : Byte) :
    branch cond rel8 s = (s.perform (branchRequests cond rel8 s)).mapCpu fun c =>
      { c with pc := if cond then branchTarget rel8 s else c.pc + 1 } := by
  have ht : s.cpu.pc + 1#16 + sext16 rel8 = branchTarget rel8 s := branchTarget_eq s rel8
  cases cond
  · simp [branch, branchRequests]
  · by_cases h : hiByte (branchTarget rel8 s) = hiByte (s.cpu.pc + 1#16) <;>
      simp [branch, branchRequests, ht, h]

theorem opJmpAbs_eq (w : Word) :
    opJmpAbs w s = (s.perform [.read s.cpu.pc, .read (s.cpu.pc + 1)]).mapCpu fun c => { c with pc := w } := by
  simp [opJmpAbs]

theorem opJmpInd_eq (w : Word) :
    opJmpInd w s =
      (s.perform [.read s.cpu.pc, .read (s.cpu.pc + 1), .read w, .read (word (hiByte w) (loByte w + 1))]).mapCpu
        fun c => { c with
          pc := word (s.answer [.read s.cpu.pc, .read (s.cpu.pc + 1), .read w] (word (hiByte w) (loByte w + 1)))
            (s.answer [.read s.cpu.pc, .read (s.cpu.pc + 1)] w) } := by
  simp [opJmpInd, State.answer]

/-- The accesses of `JSR` before it reads its third byte. -/
def jsrPushes (s : State) : List Request :=
  [.read s.cpu.pc, .read (stackBelow s 0), .write (stackBelow s 0) (hiByte (s.cpu.pc + 1)),
    .write (stackBelow s 1) (loByte (s.cpu.pc + 1))]

theorem opJsr_eq (w : Word) :
    opJsr w s = (s.perform (jsrPushes s ++ [.read (s.cpu.pc + 1)])).mapCpu fun c =>
      { c with sp := spMinus s 2, pc := word (s.answer (jsrPushes s) (s.cpu.pc + 1)) (loByte w) } := by
  simp [opJsr, jsrPushes, State.answer, stackBelow_zero, stackBelow_one]
  exact mapCpu_congr (by simp [spMinus_two])

/-- The accesses of `RTS` up to its last pull. -/
def rtsPulls (s : State) : List Request :=
  [.read s.cpu.pc, .read (stackAbove s 0), .read (stackAbove s 1), .read (stackAbove s 2)]

/-- The address `RTS` pulls. -/
def rtsAddress (s : State) : Word :=
  word (s.answer [.read s.cpu.pc, .read (stackAbove s 0), .read (stackAbove s 1)] (stackAbove s 2))
    (s.answer [.read s.cpu.pc, .read (stackAbove s 0)] (stackAbove s 1))

theorem opRts_eq :
    opRts s = (s.perform (rtsPulls s ++ [.read (rtsAddress s)])).mapCpu fun c =>
      { c with sp := spPlus s 2, pc := rtsAddress s + 1 } := by
  simp [opRts, rtsPulls, rtsAddress, State.answer, stackAbove_zero, stackAbove_one, stackAbove_two]
  exact mapCpu_congr (by simp [spPlus_two])

theorem opBrk_eq :
    opBrk s = s.afterEntry (.read s.cpu.pc :: entryPushes true (s.cpu.pc + 1) s) irqVector := by
  simp [opBrk, takeException_eq, State.afterEntry, entryPushes, vectorWord, State.answer, stackBelow, spMinus]

/-- The two dummy reads of the instructions that pull. -/
def pullDummies (s : State) : List Request := [.read s.cpu.pc, .read (stackAbove s 0)]

theorem opRti_eq :
    opRti s =
      (s.perform (pullDummies s ++ [.read (stackAbove s 1), .read (stackAbove s 2), .read (stackAbove s 3)])).mapCpu
        fun c =>
      { c with
        sp := spPlus s 3
        p := unpackP (s.answer (pullDummies s) (stackAbove s 1)) c.p
        pc := word (s.answer (pullDummies s ++ [.read (stackAbove s 1), .read (stackAbove s 2)]) (stackAbove s 3))
          (s.answer (pullDummies s ++ [.read (stackAbove s 1)]) (stackAbove s 2)) } := by
  simp [opRti, pullDummies, State.answer, stackAbove_zero, stackAbove, spPlus]

theorem opPla_eq :
    opPla s = (s.perform (pullDummies s ++ [.read (stackAbove s 1)])).mapCpu fun c =>
      { c with
        sp := spPlus s 1, a := s.answer (pullDummies s) (stackAbove s 1)
        p := setZN (s.answer (pullDummies s) (stackAbove s 1)) c.p } := by
  simp [opPla, pullDummies, State.answer, stackAbove_zero, stackAbove_one]
  exact mapCpu_congr (by simp [spPlus_one])

theorem opPlp_eq :
    opPlp s = (s.perform (pullDummies s ++ [.read (stackAbove s 1)])).mapCpu fun c =>
      { c with sp := spPlus s 1, p := unpackP (s.answer (pullDummies s) (stackAbove s 1)) c.p } := by
  simp [opPlp, pullDummies, State.answer, stackAbove_zero, stackAbove_one]
  exact mapCpu_congr (by simp [spPlus_one])

theorem opLda_eq (src : Source) :
    opLda src s = (s.perform (readRequests src s)).mapCpu fun c =>
      { c with pc := c.pc + src.size, a := operandByte src s, p := setZN (operandByte src s) c.p } := by
  simp [opLda, loadOperand_eq]

theorem opLdx_eq (src : Source) :
    opLdx src s = (s.perform (readRequests src s)).mapCpu fun c =>
      { c with pc := c.pc + src.size, x := operandByte src s, p := setZN (operandByte src s) c.p } := by
  simp [opLdx, loadOperand_eq]

theorem opLdy_eq (src : Source) :
    opLdy src s = (s.perform (readRequests src s)).mapCpu fun c =>
      { c with pc := c.pc + src.size, y := operandByte src s, p := setZN (operandByte src s) c.p } := by
  simp [opLdy, loadOperand_eq]

theorem opAdc_eq (src : Source) :
    opAdc src s = (s.perform (readRequests src s)).mapCpu fun c =>
      { c with pc := c.pc + src.size, a := (adcResult c.a (operandByte src s) c.p).1, p := (adcResult c.a (operandByte src s) c.p).2 } := by
  simp [opAdc, loadOperand_eq]

theorem opSbc_eq (src : Source) :
    opSbc src s = (s.perform (readRequests src s)).mapCpu fun c =>
      { c with pc := c.pc + src.size, a := (sbcResult c.a (operandByte src s) c.p).1, p := (sbcResult c.a (operandByte src s) c.p).2 } := by
  simp [opSbc, loadOperand_eq]

theorem opAnd_eq (src : Source) :
    opAnd src s = (s.perform (readRequests src s)).mapCpu fun c =>
      { c with pc := c.pc + src.size, a := c.a &&& operandByte src s, p := setZN (c.a &&& operandByte src s) c.p } := by
  simp [opAnd, loadOperand_eq]

theorem opOra_eq (src : Source) :
    opOra src s = (s.perform (readRequests src s)).mapCpu fun c =>
      { c with pc := c.pc + src.size, a := c.a ||| operandByte src s, p := setZN (c.a ||| operandByte src s) c.p } := by
  simp [opOra, loadOperand_eq]

theorem opEor_eq (src : Source) :
    opEor src s = (s.perform (readRequests src s)).mapCpu fun c =>
      { c with pc := c.pc + src.size, a := c.a ^^^ operandByte src s, p := setZN (c.a ^^^ operandByte src s) c.p } := by
  simp [opEor, loadOperand_eq]

theorem opCmp_eq (src : Source) :
    opCmp src s = (s.perform (readRequests src s)).mapCpu fun c =>
      { c with pc := c.pc + src.size, p := compareFlags c.a (operandByte src s) c.p } := by
  simp [opCmp, loadOperand_eq]

theorem opCpx_eq (src : Source) :
    opCpx src s = (s.perform (readRequests src s)).mapCpu fun c =>
      { c with pc := c.pc + src.size, p := compareFlags c.x (operandByte src s) c.p } := by
  simp [opCpx, loadOperand_eq]

theorem opCpy_eq (src : Source) :
    opCpy src s = (s.perform (readRequests src s)).mapCpu fun c =>
      { c with pc := c.pc + src.size, p := compareFlags c.y (operandByte src s) c.p } := by
  simp [opCpy, loadOperand_eq]

theorem opBit_eq (src : Source) :
    opBit src s = (s.perform (readRequests src s)).mapCpu fun c =>
      { c with pc := c.pc + src.size, p := bitFlags c.a (operandByte src s) c.p } := by
  simp [opBit, loadOperand_eq]

theorem opSta_eq (m : Mode) :
    opSta m s = (s.perform (writeRequests m s.cpu.a s)).mapCpu fun c =>
      { c with pc := c.pc + BitVec.ofNat 16 m.bytes.length } := storeOperand_eq s m s.cpu.a

theorem opStx_eq (m : Mode) :
    opStx m s = (s.perform (writeRequests m s.cpu.x s)).mapCpu fun c =>
      { c with pc := c.pc + BitVec.ofNat 16 m.bytes.length } := storeOperand_eq s m s.cpu.x

theorem opSty_eq (m : Mode) :
    opSty m s = (s.perform (writeRequests m s.cpu.y s)).mapCpu fun c =>
      { c with pc := c.pc + BitVec.ofNat 16 m.bytes.length } := storeOperand_eq s m s.cpu.y

theorem push_dummyFetch_eq (v : Byte) :
    push v (dummyFetch s) = (s.perform [.read s.cpu.pc, .write (stackAddress s.cpu.sp) v]).mapCpu fun c =>
      { c with sp := c.sp - 1 } := by
  rw [dummyFetch_eq, push_eq, perform_perform]
  rfl

/-- The part of a state that an instruction's accesses and results may depend on. -/
def State.view (s : State) : State := { State.reset with cpu := s.cpu, bus := s.bus }

/-- A ProcessorState with another `P.B`. -/
abbrev ProcessorState.setB (b : Bool) (c : ProcessorState) : ProcessorState := { c with p := { c.p with b := b } }

/-- `jam` and nothing else. -/
def isJam : Instr → Bool
  | .jam _ => true
  | _ => false

/-- The reads of the first `n` operand bytes. -/
def fetchList (n : Nat) (s : State) : List Request := (List.range n).map fun k => .read (s.cpu.pc + BitVec.ofNat 16 k)

/-- The number of operand bytes an instruction fetches before any other access; `JSR` reads its third byte later
(44_control_flow.md R233). -/
def operandCount (i : Instr) : Nat :=
  match i with
  | .jsr _ => 1
  | _ => (encode i).length - 1

/-- What every instruction does: an access list of at most six and a ProcessorState change, both given by ProcessorState
and the bus alone. `P.B` is kept and has no influence; only `jam` sets `jammed`. -/
structure Uniform (i : Instr) (L : State → List Request) (F : State → ProcessorState → ProcessorState) : Prop where
  eq : ∀ s, exec i s = .next ((s.perform (L s.view)).mapCpu (F s.view))
  length : ∀ s, (L s).length ≤ 6
  fetches : ∀ s, fetchList (operandCount i) s <+: L s
  jammed : ∀ s c, (F s c).jammed = (isJam i || c.jammed)
  list_setB : ∀ s b, L (s.mapCpu (.setB b)) = L s
  fun_setB : ∀ s b c, F (s.mapCpu (.setB b)) (c.setB b) = (F s c).setB b

/-- A change that keeps `jammed` and goes along with `setB`. -/
structure KeepsB (g : ProcessorState → ProcessorState) : Prop where
  jammed : ∀ c, (g c).jammed = c.jammed
  setB : ∀ b c, g (c.setB b) = (g c).setB b

variable {i : Instr}

theorem addressRequests_length (m : Mode) : (addressRequests m s).length ≤ 4 := by
  cases m <;> simp [addressRequests]

theorem earlyRequests_length (m : Mode) : (earlyRequests m s).length ≤ 1 := by
  unfold earlyRequests
  cases earlyAddress m s <;> simp

theorem address_early_length (m : Mode) : (addressRequests m s).length + (earlyRequests m s).length ≤ 4 := by
  cases m <;> simp [addressRequests, earlyRequests, earlyAddress, indexBase]

theorem loadRequests_length (m : Mode) : (loadRequests m s).length ≤ 4 := by
  have := address_early_length s m
  have := addressRequests_length s m
  simp only [loadRequests]
  split <;> simp <;> omega

theorem readRequests_length (src : Source) : (readRequests src s).length ≤ 5 := by
  cases src with
  | imm v => simp [readRequests]
  | mem m =>
    have := loadRequests_length s m
    simp [readRequests]
    omega

theorem readRequests_mem_length (m : Mode) :
    (readRequests (.mem m) s).length = (addressRequests m s).length + (if pageCrossed m s then 1 else 0) + 1 := by
  have h : pageCrossed m s = true → (earlyRequests m s).length = 1 := by
    cases m <;> simp [pageCrossed, indexBase, earlyRequests, earlyAddress]
  simp only [readRequests, loadRequests, List.length_append, List.length_singleton]
  split
  · next hc => rw [h hc]
  · rfl

theorem storeRequests_readsOnly (m : Mode) : ReadsOnly (storeRequests m s) := by
  intro q hq
  rcases List.mem_append.1 hq with hq | hq
  · exact addressRequests_readsOnly s m q hq
  · exact earlyRequests_readsOnly s m q hq

theorem readRequests_readsOnly (src : Source) : ReadsOnly (readRequests src s) := by
  cases src with
  | imm v => simp [ReadsOnly, readRequests]
  | mem m =>
    intro q hq
    simp only [readRequests, loadRequests, List.mem_append, List.mem_singleton] at hq
    rcases hq with (hq | hq) | hq
    · exact addressRequests_readsOnly s m q hq
    · split at hq
      · exact earlyRequests_readsOnly s m q hq
      · cases hq
    · exact ⟨_, hq⟩

theorem storeRequests_length (m : Mode) : (storeRequests m s).length ≤ 4 := by
  have := address_early_length s m
  simp [storeRequests]
  omega

theorem writeRequests_length (m : Mode) (v : Byte) : (writeRequests m v s).length ≤ 5 := by
  have := storeRequests_length s m
  simp [writeRequests]
  omega

theorem modifyRequests_length (m : Mode) (v : Byte) (hm : ∀ z, m ≠ .indx z) (hn : ∀ z, m ≠ .indy z) :
    (modifyRequests m v s).length ≤ 6 := by
  cases m <;> simp_all [modifyRequests, storeRequests, addressRequests, earlyRequests, earlyAddress, indexBase]

/-- The operand's bytes and accesses depend on the view alone, and not on `P.B`. -/
theorem mode_view (m : Mode) (b : Bool) :
    effectiveAddress m s.view = effectiveAddress m s ∧ loadRequests m s.view = loadRequests m s ∧
    storeRequests m s.view = storeRequests m s ∧
    effectiveAddress m (s.mapCpu (.setB b)) = effectiveAddress m s ∧
    loadRequests m (s.mapCpu (.setB b)) = loadRequests m s ∧
    storeRequests m (s.mapCpu (.setB b)) = storeRequests m s := by
  cases m <;> exact ⟨rfl, rfl, rfl, rfl, rfl, rfl⟩

theorem source_view (src : Source) (b : Bool) :
    operandByte src s.view = operandByte src s ∧ readRequests src s.view = readRequests src s ∧
    operandByte src (s.mapCpu (.setB b)) = operandByte src s ∧
    readRequests src (s.mapCpu (.setB b)) = readRequests src s := by
  cases src with
  | imm v => exact ⟨rfl, rfl, rfl, rfl⟩
  | mem m => cases m <;> exact ⟨rfl, rfl, rfl, rfl⟩

theorem write_view (m : Mode) (v : Byte) (b : Bool) :
    writeRequests m v s.view = writeRequests m v s ∧ modifyRequests m v s.view = modifyRequests m v s ∧
    modifiedByte m s.view = modifiedByte m s ∧
    writeRequests m v (s.mapCpu (.setB b)) = writeRequests m v s ∧
    modifyRequests m v (s.mapCpu (.setB b)) = modifyRequests m v s ∧
    modifiedByte m (s.mapCpu (.setB b)) = modifiedByte m s := by
  cases m <;> exact ⟨rfl, rfl, rfl, rfl, rfl, rfl⟩

theorem addressRequests_fetches (m : Mode) : fetchList m.bytes.length s <+: addressRequests m s := by
  cases m <;> simp [fetchList, Mode.bytes, addressRequests, List.range_succ]

theorem readRequests_fetches (src : Source) : fetchList src.bytes.length s <+: readRequests src s := by
  cases src with
  | imm v => simp [fetchList, Source.bytes, readRequests]
  | mem m =>
    simp only [readRequests, loadRequests, List.append_assoc]
    exact (addressRequests_fetches s m).trans (List.prefix_append _ _)

theorem storeRequests_fetches (m : Mode) (l : List Request) : fetchList m.bytes.length s <+: storeRequests m s ++ l := by
  simp only [storeRequests, List.append_assoc]
  exact (addressRequests_fetches s m).trans (List.prefix_append _ _)

theorem uniform_of_read {src : Source} {g : Byte → ProcessorState → ProcessorState} (hg : ∀ v, KeepsB (g v))
    (hi : isJam i = false ∧ operandCount i = src.bytes.length)
    (h : ∀ s, exec i s = .next ((s.perform (readRequests src s)).mapCpu fun c =>
      g (operandByte src s) { c with pc := c.pc + src.size })) : ∃ L F, Uniform i L F := by
  refine ⟨readRequests src, fun s c => g (operandByte src s) { c with pc := c.pc + src.size }, ?_, ?_, ?_, ?_, ?_, ?_⟩
  · intro s
    rw [h, (source_view s src true).1, (source_view s src true).2.1]
  · intro s
    have := readRequests_length s src
    omega
  · intro s
    rw [hi.2]
    exact readRequests_fetches s src
  · intro s c
    rw [hi.1, (hg _).jammed]
    rfl
  · intro s b
    exact (source_view s src b).2.2.2
  · intro s b c
    rw [(source_view s src b).2.2.1, ← (hg _).setB]

theorem uniform_of_store {m : Mode} {r : ProcessorState → Byte} (hr : ∀ b c, r (c.setB b) = r c)
    (hi : isJam i = false ∧ operandCount i = m.bytes.length) (h : ∀ s, exec i s = .next (storeOperand m (r s.cpu) s)) : ∃ L F, Uniform i L F := by
  refine ⟨fun s => writeRequests m (r s.cpu) s, fun _ c => { c with pc := c.pc + BitVec.ofNat 16 m.bytes.length },
    ?_, ?_, ?_, ?_, ?_, ?_⟩
  · intro s
    rw [h, storeOperand_eq, (write_view s m _ true).1]
    rfl
  · intro s
    have := writeRequests_length s m (r s.cpu)
    omega
  · intro s
    rw [hi.2]
    exact storeRequests_fetches s m _
  · intro s c
    rw [hi.1]
    rfl
  · intro s b
    rw [(write_view s m _ b).2.2.2.1, mapCpu_cpu, hr]
  · intro s b c
    rfl

theorem uniform_of_modify {m : Mode} {f : Byte → Flags → Byte × Flags} (hm : ∀ z, m ≠ .indx z)
    (hn : ∀ z, m ≠ .indy z)
    (hf : ∀ v p b, f v { p with b := b } = ((f v p).1, { (f v p).2 with b := b })) (hi : isJam i = false ∧ operandCount i = m.bytes.length)
    (h : ∀ s, exec i s = .next (modifyOperand m f s)) : ∃ L F, Uniform i L F := by
  refine ⟨fun s => modifyRequests m (f (modifiedByte m s) s.cpu.p).1 s,
    fun s c => { c with pc := c.pc + BitVec.ofNat 16 m.bytes.length, p := (f (modifiedByte m s) s.cpu.p).2 },
    ?_, ?_, ?_, ?_, ?_, ?_⟩
  · intro s
    rw [h, modifyOperand_eq, (write_view s m _ true).2.1, (write_view s m 0 true).2.2.1]
    rfl
  · intro s
    exact modifyRequests_length s m _ hm hn
  · intro s
    rw [hi.2]
    exact storeRequests_fetches s m _
  · intro s c
    rw [hi.1]
    rfl
  · intro s b
    rw [(write_view s m _ b).2.2.2.2.1, (write_view s m 0 b).2.2.2.2.2, mapCpu_cpu, hf]
  · intro s b c
    rw [(write_view s m 0 b).2.2.2.2.2, mapCpu_cpu, hf]

theorem uniform_of_implied {f : ProcessorState → ProcessorState} (hf : KeepsB f) (hi : isJam i = false ∧ operandCount i = 0)
    (h : ∀ s, exec i s = .next (implied f s)) : ∃ L F, Uniform i L F := by
  refine ⟨fun s => [.read s.cpu.pc], fun _ => f, ?_, ?_, ?_, ?_, ?_, ?_⟩
  · intro s
    rw [h, implied_eq]
    rfl
  · simp
  · intro s
    rw [hi.2]
    exact List.nil_prefix
  · intro s c
    rw [hi.1, hf.jammed]
    rfl
  · intro s b
    rfl
  · intro s b c
    exact hf.setB b c

theorem branchRequests_length_eq (cond : Bool) (rel8 : Byte) :
    (branchRequests cond rel8 s).length =
      1 + if cond then (if hiByte (branchTarget rel8 s) = hiByte (s.cpu.pc + 1) then 1 else 2) else 0 := by
  cases cond
  · rfl
  · simp only [branchRequests, if_true]
    split <;> rfl

theorem branchRequests_length (cond : Bool) (rel8 : Byte) : (branchRequests cond rel8 s).length ≤ 3 := by
  cases cond
  · simp [branchRequests]
  · simp only [branchRequests, if_true]
    split <;> simp

theorem uniform_of_branch {cond : Flags → Bool} {rel8 : Byte} (hc : ∀ p b, cond { p with b := b } = cond p)
    (hi : isJam i = false ∧ operandCount i = 1) (h : ∀ s, exec i s = .next (branch (cond s.cpu.p) rel8 s)) : ∃ L F, Uniform i L F := by
  refine ⟨fun s => branchRequests (cond s.cpu.p) rel8 s,
    fun s c => { c with pc := if cond s.cpu.p then branchTarget rel8 s else c.pc + 1 }, ?_, ?_, ?_, ?_, ?_, ?_⟩
  · intro s
    rw [h, branch_eq]
    rfl
  · intro s
    have := branchRequests_length s (cond s.cpu.p) rel8
    omega
  · intro s
    rw [hi.2]
    simp [fetchList, branchRequests]
  · intro s c
    rw [hi.1]
    rfl
  · intro s b
    simp only [mapCpu_cpu, hc]
    rfl
  · intro s b c
    simp only [mapCpu_cpu, hc]
    rfl

/-- The accesses and the change written out as functions of the state: for the instructions with a list of their own. -/
theorem uniform_of_list {L : State → List Request} {F : State → ProcessorState → ProcessorState}
    (h : ∀ s, exec i s = .next ((s.perform (L s)).mapCpu (F s))) (hv : ∀ s, L s.view = L s ∧ F s.view = F s)
    (hl : ∀ s, (L s).length ≤ 6)
    (hf : ∀ s, fetchList (operandCount i) s <+: L s) (hj : ∀ s c, (F s c).jammed = (isJam i || c.jammed))
    (hB : ∀ s b, L (s.mapCpu (.setB b)) = L s ∧ ∀ c, F (s.mapCpu (.setB b)) (c.setB b) = (F s c).setB b) :
    ∃ L F, Uniform i L F :=
  ⟨L, F, fun s => by rw [h, (hv s).1, (hv s).2], hl, hf, hj, fun s b => (hB s b).1, fun s b => (hB s b).2⟩

theorem adc_setB (a m : Byte) (p : Flags) (b : Bool) :
    adcResult a m { p with b := b } = ((adcResult a m p).1, { (adcResult a m p).2 with b := b }) := by
  obtain ⟨_, _, _, d, _, _, _⟩ := p
  cases d <;> rfl

theorem sbc_setB (a m : Byte) (p : Flags) (b : Bool) :
    sbcResult a m { p with b := b } = ((sbcResult a m p).1, { (sbcResult a m p).2 with b := b }) := rfl

theorem uniform_of_lda {src : Source} (hi : isJam i = false ∧ operandCount i = src.bytes.length) (h : ∀ s, exec i s = .next (opLda src s)) :
    ∃ L F, Uniform i L F :=
  uniform_of_read (g := fun v c => { c with a := v, p := setZN v c.p })
    (fun _ => ⟨fun _ => rfl, fun _ _ => rfl⟩) hi fun s => (h s).trans (congrArg _ (opLda_eq s _))

theorem uniform_of_ldx {src : Source} (hi : isJam i = false ∧ operandCount i = src.bytes.length) (h : ∀ s, exec i s = .next (opLdx src s)) :
    ∃ L F, Uniform i L F :=
  uniform_of_read (g := fun v c => { c with x := v, p := setZN v c.p })
    (fun _ => ⟨fun _ => rfl, fun _ _ => rfl⟩) hi fun s => (h s).trans (congrArg _ (opLdx_eq s _))

theorem uniform_of_ldy {src : Source} (hi : isJam i = false ∧ operandCount i = src.bytes.length) (h : ∀ s, exec i s = .next (opLdy src s)) :
    ∃ L F, Uniform i L F :=
  uniform_of_read (g := fun v c => { c with y := v, p := setZN v c.p })
    (fun _ => ⟨fun _ => rfl, fun _ _ => rfl⟩) hi fun s => (h s).trans (congrArg _ (opLdy_eq s _))

theorem uniform_of_and {src : Source} (hi : isJam i = false ∧ operandCount i = src.bytes.length) (h : ∀ s, exec i s = .next (opAnd src s)) :
    ∃ L F, Uniform i L F :=
  uniform_of_read (g := fun v c => { c with a := c.a &&& v, p := setZN (c.a &&& v) c.p })
    (fun _ => ⟨fun _ => rfl, fun _ _ => rfl⟩) hi fun s => (h s).trans (congrArg _ (opAnd_eq s _))

theorem uniform_of_ora {src : Source} (hi : isJam i = false ∧ operandCount i = src.bytes.length) (h : ∀ s, exec i s = .next (opOra src s)) :
    ∃ L F, Uniform i L F :=
  uniform_of_read (g := fun v c => { c with a := c.a ||| v, p := setZN (c.a ||| v) c.p })
    (fun _ => ⟨fun _ => rfl, fun _ _ => rfl⟩) hi fun s => (h s).trans (congrArg _ (opOra_eq s _))

theorem uniform_of_eor {src : Source} (hi : isJam i = false ∧ operandCount i = src.bytes.length) (h : ∀ s, exec i s = .next (opEor src s)) :
    ∃ L F, Uniform i L F :=
  uniform_of_read (g := fun v c => { c with a := c.a ^^^ v, p := setZN (c.a ^^^ v) c.p })
    (fun _ => ⟨fun _ => rfl, fun _ _ => rfl⟩) hi fun s => (h s).trans (congrArg _ (opEor_eq s _))

theorem uniform_of_cmp {src : Source} (hi : isJam i = false ∧ operandCount i = src.bytes.length) (h : ∀ s, exec i s = .next (opCmp src s)) :
    ∃ L F, Uniform i L F :=
  uniform_of_read (g := fun v c => { c with p := compareFlags c.a v c.p })
    (fun _ => ⟨fun _ => rfl, fun _ _ => rfl⟩) hi fun s => (h s).trans (congrArg _ (opCmp_eq s _))

theorem uniform_of_cpx {src : Source} (hi : isJam i = false ∧ operandCount i = src.bytes.length) (h : ∀ s, exec i s = .next (opCpx src s)) :
    ∃ L F, Uniform i L F :=
  uniform_of_read (g := fun v c => { c with p := compareFlags c.x v c.p })
    (fun _ => ⟨fun _ => rfl, fun _ _ => rfl⟩) hi fun s => (h s).trans (congrArg _ (opCpx_eq s _))

theorem uniform_of_cpy {src : Source} (hi : isJam i = false ∧ operandCount i = src.bytes.length) (h : ∀ s, exec i s = .next (opCpy src s)) :
    ∃ L F, Uniform i L F :=
  uniform_of_read (g := fun v c => { c with p := compareFlags c.y v c.p })
    (fun _ => ⟨fun _ => rfl, fun _ _ => rfl⟩) hi fun s => (h s).trans (congrArg _ (opCpy_eq s _))

theorem uniform_of_bit {src : Source} (hi : isJam i = false ∧ operandCount i = src.bytes.length) (h : ∀ s, exec i s = .next (opBit src s)) :
    ∃ L F, Uniform i L F :=
  uniform_of_read (g := fun v c => { c with p := bitFlags c.a v c.p })
    (fun _ => ⟨fun _ => rfl, fun _ _ => rfl⟩) hi fun s => (h s).trans (congrArg _ (opBit_eq s _))

theorem uniform_of_adc {src : Source} (hi : isJam i = false ∧ operandCount i = src.bytes.length) (h : ∀ s, exec i s = .next (opAdc src s)) :
    ∃ L F, Uniform i L F :=
  uniform_of_read (g := fun v c => { c with a := (adcResult c.a v c.p).1, p := (adcResult c.a v c.p).2 })
    (fun _ => ⟨fun _ => rfl, fun b c => by simp only [adc_setB]⟩) hi fun s => (h s).trans (congrArg _ (opAdc_eq s _))

theorem uniform_of_sbc {src : Source} (hi : isJam i = false ∧ operandCount i = src.bytes.length) (h : ∀ s, exec i s = .next (opSbc src s)) :
    ∃ L F, Uniform i L F :=
  uniform_of_read (g := fun v c => { c with a := (sbcResult c.a v c.p).1, p := (sbcResult c.a v c.p).2 })
    (fun _ => ⟨fun _ => rfl, fun b c => by simp only [sbc_setB]⟩) hi fun s => (h s).trans (congrArg _ (opSbc_eq s _))

/-- Everything an instruction can do. -/
theorem exec_uniform (i : Instr) : ∃ L F, Uniform i L F := by
  cases i
  case ldaImm | ldaZp | ldaZpx | ldaAbs | ldaAbsx | ldaAbsy | ldaIndx | ldaIndy =>
    exact uniform_of_lda ⟨rfl, rfl⟩ fun _ => rfl
  case ldxImm | ldxZp | ldxZpy | ldxAbs | ldxAbsy =>
    exact uniform_of_ldx ⟨rfl, rfl⟩ fun _ => rfl
  case ldyImm | ldyZp | ldyZpx | ldyAbs | ldyAbsx =>
    exact uniform_of_ldy ⟨rfl, rfl⟩ fun _ => rfl
  case andImm | andZp | andZpx | andAbs | andAbsx | andAbsy | andIndx | andIndy =>
    exact uniform_of_and ⟨rfl, rfl⟩ fun _ => rfl
  case oraImm | oraZp | oraZpx | oraAbs | oraAbsx | oraAbsy | oraIndx | oraIndy =>
    exact uniform_of_ora ⟨rfl, rfl⟩ fun _ => rfl
  case eorImm | eorZp | eorZpx | eorAbs | eorAbsx | eorAbsy | eorIndx | eorIndy =>
    exact uniform_of_eor ⟨rfl, rfl⟩ fun _ => rfl
  case cmpImm | cmpZp | cmpZpx | cmpAbs | cmpAbsx | cmpAbsy | cmpIndx | cmpIndy =>
    exact uniform_of_cmp ⟨rfl, rfl⟩ fun _ => rfl
  case cpxImm | cpxZp | cpxAbs =>
    exact uniform_of_cpx ⟨rfl, rfl⟩ fun _ => rfl
  case cpyImm | cpyZp | cpyAbs =>
    exact uniform_of_cpy ⟨rfl, rfl⟩ fun _ => rfl
  case bitZp | bitAbs =>
    exact uniform_of_bit ⟨rfl, rfl⟩ fun _ => rfl
  case adcImm | adcZp | adcZpx | adcAbs | adcAbsx | adcAbsy | adcIndx | adcIndy =>
    exact uniform_of_adc ⟨rfl, rfl⟩ fun _ => rfl
  case sbcImm | sbcZp | sbcZpx | sbcAbs | sbcAbsx | sbcAbsy | sbcIndx | sbcIndy =>
    exact uniform_of_sbc ⟨rfl, rfl⟩ fun _ => rfl
  case staZp | staZpx | staAbs | staAbsx | staAbsy | staIndx | staIndy =>
    exact uniform_of_store (r := ProcessorState.a) (fun _ _ => rfl) ⟨rfl, rfl⟩ fun _ => rfl
  case stxZp | stxZpy | stxAbs =>
    exact uniform_of_store (r := ProcessorState.x) (fun _ _ => rfl) ⟨rfl, rfl⟩ fun _ => rfl
  case styZp | styZpx | styAbs =>
    exact uniform_of_store (r := ProcessorState.y) (fun _ _ => rfl) ⟨rfl, rfl⟩ fun _ => rfl
  case aslZp | aslZpx | aslAbs | aslAbsx =>
    exact uniform_of_modify (f := aslResult) (by simp) (by simp) (fun _ _ _ => rfl) ⟨rfl, rfl⟩ fun _ => rfl
  case lsrZp | lsrZpx | lsrAbs | lsrAbsx =>
    exact uniform_of_modify (f := lsrResult) (by simp) (by simp) (fun _ _ _ => rfl) ⟨rfl, rfl⟩ fun _ => rfl
  case rolZp | rolZpx | rolAbs | rolAbsx =>
    exact uniform_of_modify (f := rolResult) (by simp) (by simp) (fun _ _ _ => rfl) ⟨rfl, rfl⟩ fun _ => rfl
  case rorZp | rorZpx | rorAbs | rorAbsx =>
    exact uniform_of_modify (f := rorResult) (by simp) (by simp) (fun _ _ _ => rfl) ⟨rfl, rfl⟩ fun _ => rfl
  case incZp | incZpx | incAbs | incAbsx =>
    exact uniform_of_modify (f := incResult) (by simp) (by simp) (fun _ _ _ => rfl) ⟨rfl, rfl⟩ fun _ => rfl
  case decZp | decZpx | decAbs | decAbsx =>
    exact uniform_of_modify (f := decResult) (by simp) (by simp) (fun _ _ _ => rfl) ⟨rfl, rfl⟩ fun _ => rfl
  case aslAcc | lsrAcc | rolAcc | rorAcc =>
    exact uniform_of_implied (by exact ⟨fun _ => rfl, fun _ _ => rfl⟩) ⟨rfl, rfl⟩ fun _ => rfl
  case tax | tay | txa | tya | tsx | txs | inx | iny | dex | dey | clc | sec | cli | sei | cld | sed | clv =>
    exact uniform_of_implied (by exact ⟨fun _ => rfl, fun _ _ => rfl⟩) ⟨rfl, rfl⟩ fun _ => rfl
  case nop =>
    exact uniform_of_implied (f := id) ⟨fun _ => rfl, fun _ _ => rfl⟩ ⟨rfl, rfl⟩ fun _ => rfl
  case bcc => exact uniform_of_branch (cond := fun p => !p.c) (fun _ _ => rfl) ⟨rfl, rfl⟩ fun _ => rfl
  case bcs => exact uniform_of_branch (cond := fun p => p.c) (fun _ _ => rfl) ⟨rfl, rfl⟩ fun _ => rfl
  case beq => exact uniform_of_branch (cond := fun p => p.z) (fun _ _ => rfl) ⟨rfl, rfl⟩ fun _ => rfl
  case bne => exact uniform_of_branch (cond := fun p => !p.z) (fun _ _ => rfl) ⟨rfl, rfl⟩ fun _ => rfl
  case bmi => exact uniform_of_branch (cond := fun p => p.n) (fun _ _ => rfl) ⟨rfl, rfl⟩ fun _ => rfl
  case bpl => exact uniform_of_branch (cond := fun p => !p.n) (fun _ _ => rfl) ⟨rfl, rfl⟩ fun _ => rfl
  case bvc => exact uniform_of_branch (cond := fun p => !p.v) (fun _ _ => rfl) ⟨rfl, rfl⟩ fun _ => rfl
  case bvs => exact uniform_of_branch (cond := fun p => p.v) (fun _ _ => rfl) ⟨rfl, rfl⟩ fun _ => rfl
  case jmpAbs w =>
    exact uniform_of_list (fun s => congrArg _ (opJmpAbs_eq s w)) (fun _ => ⟨rfl, rfl⟩) (fun _ => by simp)
      (fun _ => by simp [fetchList, operandCount, encode, List.range_succ]) (fun _ _ => rfl) fun _ _ => ⟨rfl, fun _ => rfl⟩
  case jmpInd w =>
    exact uniform_of_list (fun s => congrArg _ (opJmpInd_eq s w)) (fun _ => ⟨rfl, rfl⟩) (fun _ => by simp)
      (fun _ => by simp [fetchList, operandCount, encode, List.range_succ]) (fun _ _ => rfl) fun _ _ => ⟨rfl, fun _ => rfl⟩
  case jsr w =>
    exact uniform_of_list (fun s => congrArg _ (opJsr_eq s w)) (fun _ => ⟨rfl, rfl⟩) (fun _ => by simp [jsrPushes])
      (fun _ => by simp [fetchList, operandCount, jsrPushes]) (fun _ _ => rfl) fun _ _ => ⟨rfl, fun _ => rfl⟩
  case rts =>
    exact uniform_of_list (fun s => congrArg _ (opRts_eq s)) (fun _ => ⟨rfl, rfl⟩) (fun _ => by simp [rtsPulls])
      (fun _ => List.nil_prefix) (fun _ _ => rfl) fun _ _ => ⟨rfl, fun _ => rfl⟩
  case brk =>
    exact uniform_of_list (fun s => congrArg _ (opBrk_eq s)) (fun _ => ⟨rfl, rfl⟩) (fun _ => by simp [entryPushes])
      (fun _ => List.nil_prefix) (fun _ _ => rfl) fun _ _ => ⟨rfl, fun _ => rfl⟩
  case rti =>
    exact uniform_of_list (fun s => congrArg _ (opRti_eq s)) (fun _ => ⟨rfl, rfl⟩) (fun _ => by simp [pullDummies])
      (fun _ => List.nil_prefix) (fun _ _ => rfl) fun _ _ => ⟨rfl, fun _ => rfl⟩
  case pla =>
    exact uniform_of_list (fun s => congrArg _ (opPla_eq s)) (fun _ => ⟨rfl, rfl⟩) (fun _ => by simp [pullDummies])
      (fun _ => List.nil_prefix) (fun _ _ => rfl) fun _ _ => ⟨rfl, fun _ => rfl⟩
  case plp =>
    exact uniform_of_list (fun s => congrArg _ (opPlp_eq s)) (fun _ => ⟨rfl, rfl⟩) (fun _ => by simp [pullDummies])
      (fun _ => List.nil_prefix) (fun _ _ => rfl) fun _ _ => ⟨rfl, fun _ => rfl⟩
  case pha =>
    refine uniform_of_list (L := fun s => [.read s.cpu.pc, .write (stackAddress s.cpu.sp) (s.cpu.a)])
      (F := fun _ c => { c with sp := c.sp - 1 }) (fun s => ?_) (fun _ => ⟨rfl, rfl⟩) (fun _ => by simp)
      (fun _ => List.nil_prefix) (fun _ _ => rfl) fun _ _ => ⟨rfl, fun _ => rfl⟩
    show Host.Outcome.next (push s.cpu.a (dummyFetch s)) = _
    rw [dummyFetch_eq, push_eq, perform_perform]
    rfl
  case php =>
    refine uniform_of_list (L := fun s => [.read s.cpu.pc, .write (stackAddress s.cpu.sp) (packP true s.cpu.p)])
      (F := fun _ c => { c with sp := c.sp - 1 }) (fun s => ?_) (fun _ => ⟨rfl, rfl⟩) (fun _ => by simp)
      (fun _ => List.nil_prefix) (fun _ _ => rfl) fun _ _ => ⟨rfl, fun _ => rfl⟩
    show Host.Outcome.next (push (packP true s.cpu.p) (dummyFetch s)) = _
    rw [dummyFetch_eq, push_eq, perform_perform]
    rfl
  case jam op =>
    exact uniform_of_list (L := fun _ => []) (F := fun _ c => { c with pc := c.pc - 1, jammed := true })
      (fun s => by rw [perform_nil]; rfl) (fun _ => ⟨rfl, rfl⟩) (fun _ => by simp)
      (fun _ => List.nil_prefix) (fun _ _ => rfl) fun _ _ => ⟨rfl, fun _ => rfl⟩

end Sys2Proof.Machine
end

