-- ==== Sys2Proof/Laws/Flags.lean ====
section
/-! SUPPORT. The flag computations in the arithmetic terms of Safety.lean. -/

namespace Sys2Proof.Machine

theorem bit_seven (v : Byte) : bit v 7 = decide (128 ≤ v.toNat) := by
  have h : ∀ n : Fin 256, bit (BitVec.ofFin n) 7 = decide (128 ≤ n.val) := by decide +kernel
  exact h v.toFin

theorem bit_six (v : Byte) : bit v 6 = decide (64 ≤ v.toNat % 128) := by
  have h : ∀ n : Fin 256, bit (BitVec.ofFin n) 6 = decide (64 ≤ n.val % 128) := by decide +kernel
  exact h v.toFin

theorem bit_zero (v : Byte) : bit v 0 = decide (v.toNat % 2 = 1) := by
  have h : ∀ n : Fin 256, bit (BitVec.ofFin n) 0 = decide (n.val % 2 = 1) := by decide +kernel
  exact h v.toFin

theorem beq_zero (v : Byte) : (v == 0) = decide (v.toNat = 0) := by
  rw [Bool.eq_iff_iff, beq_iff_eq, decide_eq_true_eq, ← BitVec.toNat_inj]
  rfl

/-- `setZN` in numbers. -/
theorem withZN_eq (v : Byte) (p : Flags) : withZN v p = setZN v p := by
  simp only [withZN, setZN, bit_seven, beq_zero]

theorem and_low (x : Nat) : x &&& 0x0F = x % 16 := Nat.and_two_pow_sub_one_eq_mod x 4

theorem and_byte (x : Nat) : x &&& 0xFF = x % 256 := Nat.and_two_pow_sub_one_eq_mod x 8

theorem and_high (v : Byte) : v.toNat &&& 0xF0 = v.toNat / 16 * 16 := by
  have h : ∀ n : Fin 256, n.val &&& 0xF0 = n.val / 16 * 16 := by decide +kernel
  exact h v.toFin

theorem testBit_seven (x : Nat) : x.testBit 7 = decide (x / 128 % 2 = 1) := Nat.testBit_eq_decide_div_mod_eq

/-- A number has bit 7. -/
theorem and_sign (x : Nat) : (x &&& 0x80 != 0) = x.testBit 7 := by
  cases h : x.testBit 7 with
  | true =>
    refine bne_iff_ne.2 fun e => ?_
    have := congrArg (Nat.testBit · 7) e
    rw [show (0x80 : Nat) = 2 ^ 7 from rfl, Nat.testBit_and, h, Nat.testBit_two_pow_self] at this
    simp at this
  | false =>
    have e : x &&& 0x80 = 0 := by
      apply Nat.eq_of_testBit_eq
      intro i
      rw [show (0x80 : Nat) = 2 ^ 7 from rfl, Nat.testBit_and, Nat.testBit_two_pow, Nat.zero_testBit]
      by_cases hi : 7 = i
      · rw [← hi, h]
        rfl
      · simp [hi]
    simp [e]

/-- Both numbers differ from a third in bit 7: the overflow condition of 42_arithmetic_logic.md R191, R192. -/
theorem xor_signs (x y t : Nat) :
    ((x ^^^ t) &&& (y ^^^ t) &&& 0x80 != 0) = decide (x / 128 % 2 ≠ t / 128 % 2 ∧ y / 128 % 2 ≠ t / 128 % 2) := by
  rw [and_sign, Nat.testBit_and, Nat.testBit_xor, Nat.testBit_xor, testBit_seven, testBit_seven, testBit_seven,
    Bool.eq_iff_iff]
  simp only [Bool.and_eq_true, bne_iff_ne, ne_eq, decide_eq_decide, decide_eq_true_eq]
  omega

end Sys2Proof.Machine
end

