-- ==== Sys2Proof/Laws/PerInstr.lean ====
section
/-! SUPPORT. The family EncodeLength: an instruction's encoding begins with one opcode byte and is as long as that byte
says (30_encoding.md R90, R92), for `jam` where its opcode is of the undefined set. -/

namespace Sys2Proof.Laws.EncodeLength

/-- The encoding of a well-formed instruction is an opcode byte and the operand bytes its length asks for. -/
def Statement (i : Instr) : Prop :=
  i.wellFormed = true → ∃ opcode rest, encode i = opcode :: rest ∧ rest.length + 1 = instrLength opcode

/-- The length of an undefined opcode is 1 (30_encoding.md R92). -/
theorem instrLength_undefined (opcode : Byte) (h : opcode ∈ undefinedOpcodes) : instrLength opcode = 1 :=
  instrLength_none (opcodeRow_eq_none.2 h)

theorem ofNone {i : Instr} {op : Byte} (he : encode i = [op]) (hl : instrLength op = 1) : Statement i :=
  fun _ => ⟨op, [], he, hl.symm⟩

theorem ofByte {i : Instr} {op b : Byte} (he : encode i = [op, b]) (hl : instrLength op = 2) : Statement i :=
  fun _ => ⟨op, [b], he, hl.symm⟩

theorem ofWord {i : Instr} {op b c : Byte} (he : encode i = [op, b, c]) (hl : instrLength op = 3) : Statement i :=
  fun _ => ⟨op, [b, c], he, hl.symm⟩

theorem ldaImm (imm8 : Byte) : Statement (.ldaImm imm8) :=
  ofByte rfl ((instrLength_eq _).trans rfl)
theorem ldaZp (zp8 : Byte) : Statement (.ldaZp zp8) :=
  ofByte rfl ((instrLength_eq _).trans rfl)
theorem ldaZpx (zp8 : Byte) : Statement (.ldaZpx zp8) :=
  ofByte rfl ((instrLength_eq _).trans rfl)
theorem ldaAbs (abs16 : Word) : Statement (.ldaAbs abs16) :=
  ofWord rfl ((instrLength_eq _).trans rfl)
theorem ldaAbsx (abs16 : Word) : Statement (.ldaAbsx abs16) :=
  ofWord rfl ((instrLength_eq _).trans rfl)
theorem ldaAbsy (abs16 : Word) : Statement (.ldaAbsy abs16) :=
  ofWord rfl ((instrLength_eq _).trans rfl)
theorem ldaIndx (zp8 : Byte) : Statement (.ldaIndx zp8) :=
  ofByte rfl ((instrLength_eq _).trans rfl)
theorem ldaIndy (zp8 : Byte) : Statement (.ldaIndy zp8) :=
  ofByte rfl ((instrLength_eq _).trans rfl)
theorem ldxImm (imm8 : Byte) : Statement (.ldxImm imm8) :=
  ofByte rfl ((instrLength_eq _).trans rfl)
theorem ldxZp (zp8 : Byte) : Statement (.ldxZp zp8) :=
  ofByte rfl ((instrLength_eq _).trans rfl)
theorem ldxZpy (zp8 : Byte) : Statement (.ldxZpy zp8) :=
  ofByte rfl ((instrLength_eq _).trans rfl)
theorem ldxAbs (abs16 : Word) : Statement (.ldxAbs abs16) :=
  ofWord rfl ((instrLength_eq _).trans rfl)
theorem ldxAbsy (abs16 : Word) : Statement (.ldxAbsy abs16) :=
  ofWord rfl ((instrLength_eq _).trans rfl)
theorem ldyImm (imm8 : Byte) : Statement (.ldyImm imm8) :=
  ofByte rfl ((instrLength_eq _).trans rfl)
theorem ldyZp (zp8 : Byte) : Statement (.ldyZp zp8) :=
  ofByte rfl ((instrLength_eq _).trans rfl)
theorem ldyZpx (zp8 : Byte) : Statement (.ldyZpx zp8) :=
  ofByte rfl ((instrLength_eq _).trans rfl)
theorem ldyAbs (abs16 : Word) : Statement (.ldyAbs abs16) :=
  ofWord rfl ((instrLength_eq _).trans rfl)
theorem ldyAbsx (abs16 : Word) : Statement (.ldyAbsx abs16) :=
  ofWord rfl ((instrLength_eq _).trans rfl)
theorem staZp (zp8 : Byte) : Statement (.staZp zp8) :=
  ofByte rfl ((instrLength_eq _).trans rfl)
theorem staZpx (zp8 : Byte) : Statement (.staZpx zp8) :=
  ofByte rfl ((instrLength_eq _).trans rfl)
theorem staAbs (abs16 : Word) : Statement (.staAbs abs16) :=
  ofWord rfl ((instrLength_eq _).trans rfl)
theorem staAbsx (abs16 : Word) : Statement (.staAbsx abs16) :=
  ofWord rfl ((instrLength_eq _).trans rfl)
theorem staAbsy (abs16 : Word) : Statement (.staAbsy abs16) :=
  ofWord rfl ((instrLength_eq _).trans rfl)
theorem staIndx (zp8 : Byte) : Statement (.staIndx zp8) :=
  ofByte rfl ((instrLength_eq _).trans rfl)
theorem staIndy (zp8 : Byte) : Statement (.staIndy zp8) :=
  ofByte rfl ((instrLength_eq _).trans rfl)
theorem stxZp (zp8 : Byte) : Statement (.stxZp zp8) :=
  ofByte rfl ((instrLength_eq _).trans rfl)
theorem stxZpy (zp8 : Byte) : Statement (.stxZpy zp8) :=
  ofByte rfl ((instrLength_eq _).trans rfl)
theorem stxAbs (abs16 : Word) : Statement (.stxAbs abs16) :=
  ofWord rfl ((instrLength_eq _).trans rfl)
theorem styZp (zp8 : Byte) : Statement (.styZp zp8) :=
  ofByte rfl ((instrLength_eq _).trans rfl)
theorem styZpx (zp8 : Byte) : Statement (.styZpx zp8) :=
  ofByte rfl ((instrLength_eq _).trans rfl)
theorem styAbs (abs16 : Word) : Statement (.styAbs abs16) :=
  ofWord rfl ((instrLength_eq _).trans rfl)
theorem tax : Statement (.tax) :=
  ofNone rfl ((instrLength_eq _).trans rfl)
theorem tay : Statement (.tay) :=
  ofNone rfl ((instrLength_eq _).trans rfl)
theorem txa : Statement (.txa) :=
  ofNone rfl ((instrLength_eq _).trans rfl)
theorem tya : Statement (.tya) :=
  ofNone rfl ((instrLength_eq _).trans rfl)
theorem tsx : Statement (.tsx) :=
  ofNone rfl ((instrLength_eq _).trans rfl)
theorem txs : Statement (.txs) :=
  ofNone rfl ((instrLength_eq _).trans rfl)
theorem adcImm (imm8 : Byte) : Statement (.adcImm imm8) :=
  ofByte rfl ((instrLength_eq _).trans rfl)
theorem adcZp (zp8 : Byte) : Statement (.adcZp zp8) :=
  ofByte rfl ((instrLength_eq _).trans rfl)
theorem adcZpx (zp8 : Byte) : Statement (.adcZpx zp8) :=
  ofByte rfl ((instrLength_eq _).trans rfl)
theorem adcAbs (abs16 : Word) : Statement (.adcAbs abs16) :=
  ofWord rfl ((instrLength_eq _).trans rfl)
theorem adcAbsx (abs16 : Word) : Statement (.adcAbsx abs16) :=
  ofWord rfl ((instrLength_eq _).trans rfl)
theorem adcAbsy (abs16 : Word) : Statement (.adcAbsy abs16) :=
  ofWord rfl ((instrLength_eq _).trans rfl)
theorem adcIndx (zp8 : Byte) : Statement (.adcIndx zp8) :=
  ofByte rfl ((instrLength_eq _).trans rfl)
theorem adcIndy (zp8 : Byte) : Statement (.adcIndy zp8) :=
  ofByte rfl ((instrLength_eq _).trans rfl)
theorem sbcImm (imm8 : Byte) : Statement (.sbcImm imm8) :=
  ofByte rfl ((instrLength_eq _).trans rfl)
theorem sbcZp (zp8 : Byte) : Statement (.sbcZp zp8) :=
  ofByte rfl ((instrLength_eq _).trans rfl)
theorem sbcZpx (zp8 : Byte) : Statement (.sbcZpx zp8) :=
  ofByte rfl ((instrLength_eq _).trans rfl)
theorem sbcAbs (abs16 : Word) : Statement (.sbcAbs abs16) :=
  ofWord rfl ((instrLength_eq _).trans rfl)
theorem sbcAbsx (abs16 : Word) : Statement (.sbcAbsx abs16) :=
  ofWord rfl ((instrLength_eq _).trans rfl)
theorem sbcAbsy (abs16 : Word) : Statement (.sbcAbsy abs16) :=
  ofWord rfl ((instrLength_eq _).trans rfl)
theorem sbcIndx (zp8 : Byte) : Statement (.sbcIndx zp8) :=
  ofByte rfl ((instrLength_eq _).trans rfl)
theorem sbcIndy (zp8 : Byte) : Statement (.sbcIndy zp8) :=
  ofByte rfl ((instrLength_eq _).trans rfl)
theorem andImm (imm8 : Byte) : Statement (.andImm imm8) :=
  ofByte rfl ((instrLength_eq _).trans rfl)
theorem andZp (zp8 : Byte) : Statement (.andZp zp8) :=
  ofByte rfl ((instrLength_eq _).trans rfl)
theorem andZpx (zp8 : Byte) : Statement (.andZpx zp8) :=
  ofByte rfl ((instrLength_eq _).trans rfl)
theorem andAbs (abs16 : Word) : Statement (.andAbs abs16) :=
  ofWord rfl ((instrLength_eq _).trans rfl)
theorem andAbsx (abs16 : Word) : Statement (.andAbsx abs16) :=
  ofWord rfl ((instrLength_eq _).trans rfl)
theorem andAbsy (abs16 : Word) : Statement (.andAbsy abs16) :=
  ofWord rfl ((instrLength_eq _).trans rfl)
theorem andIndx (zp8 : Byte) : Statement (.andIndx zp8) :=
  ofByte rfl ((instrLength_eq _).trans rfl)
theorem andIndy (zp8 : Byte) : Statement (.andIndy zp8) :=
  ofByte rfl ((instrLength_eq _).trans rfl)
theorem oraImm (imm8 : Byte) : Statement (.oraImm imm8) :=
  ofByte rfl ((instrLength_eq _).trans rfl)
theorem oraZp (zp8 : Byte) : Statement (.oraZp zp8) :=
  ofByte rfl ((instrLength_eq _).trans rfl)
theorem oraZpx (zp8 : Byte) : Statement (.oraZpx zp8) :=
  ofByte rfl ((instrLength_eq _).trans rfl)
theorem oraAbs (abs16 : Word) : Statement (.oraAbs abs16) :=
  ofWord rfl ((instrLength_eq _).trans rfl)
theorem oraAbsx (abs16 : Word) : Statement (.oraAbsx abs16) :=
  ofWord rfl ((instrLength_eq _).trans rfl)
theorem oraAbsy (abs16 : Word) : Statement (.oraAbsy abs16) :=
  ofWord rfl ((instrLength_eq _).trans rfl)
theorem oraIndx (zp8 : Byte) : Statement (.oraIndx zp8) :=
  ofByte rfl ((instrLength_eq _).trans rfl)
theorem oraIndy (zp8 : Byte) : Statement (.oraIndy zp8) :=
  ofByte rfl ((instrLength_eq _).trans rfl)
theorem eorImm (imm8 : Byte) : Statement (.eorImm imm8) :=
  ofByte rfl ((instrLength_eq _).trans rfl)
theorem eorZp (zp8 : Byte) : Statement (.eorZp zp8) :=
  ofByte rfl ((instrLength_eq _).trans rfl)
theorem eorZpx (zp8 : Byte) : Statement (.eorZpx zp8) :=
  ofByte rfl ((instrLength_eq _).trans rfl)
theorem eorAbs (abs16 : Word) : Statement (.eorAbs abs16) :=
  ofWord rfl ((instrLength_eq _).trans rfl)
theorem eorAbsx (abs16 : Word) : Statement (.eorAbsx abs16) :=
  ofWord rfl ((instrLength_eq _).trans rfl)
theorem eorAbsy (abs16 : Word) : Statement (.eorAbsy abs16) :=
  ofWord rfl ((instrLength_eq _).trans rfl)
theorem eorIndx (zp8 : Byte) : Statement (.eorIndx zp8) :=
  ofByte rfl ((instrLength_eq _).trans rfl)
theorem eorIndy (zp8 : Byte) : Statement (.eorIndy zp8) :=
  ofByte rfl ((instrLength_eq _).trans rfl)
theorem cmpImm (imm8 : Byte) : Statement (.cmpImm imm8) :=
  ofByte rfl ((instrLength_eq _).trans rfl)
theorem cmpZp (zp8 : Byte) : Statement (.cmpZp zp8) :=
  ofByte rfl ((instrLength_eq _).trans rfl)
theorem cmpZpx (zp8 : Byte) : Statement (.cmpZpx zp8) :=
  ofByte rfl ((instrLength_eq _).trans rfl)
theorem cmpAbs (abs16 : Word) : Statement (.cmpAbs abs16) :=
  ofWord rfl ((instrLength_eq _).trans rfl)
theorem cmpAbsx (abs16 : Word) : Statement (.cmpAbsx abs16) :=
  ofWord rfl ((instrLength_eq _).trans rfl)
theorem cmpAbsy (abs16 : Word) : Statement (.cmpAbsy abs16) :=
  ofWord rfl ((instrLength_eq _).trans rfl)
theorem cmpIndx (zp8 : Byte) : Statement (.cmpIndx zp8) :=
  ofByte rfl ((instrLength_eq _).trans rfl)
theorem cmpIndy (zp8 : Byte) : Statement (.cmpIndy zp8) :=
  ofByte rfl ((instrLength_eq _).trans rfl)
theorem cpxImm (imm8 : Byte) : Statement (.cpxImm imm8) :=
  ofByte rfl ((instrLength_eq _).trans rfl)
theorem cpxZp (zp8 : Byte) : Statement (.cpxZp zp8) :=
  ofByte rfl ((instrLength_eq _).trans rfl)
theorem cpxAbs (abs16 : Word) : Statement (.cpxAbs abs16) :=
  ofWord rfl ((instrLength_eq _).trans rfl)
theorem cpyImm (imm8 : Byte) : Statement (.cpyImm imm8) :=
  ofByte rfl ((instrLength_eq _).trans rfl)
theorem cpyZp (zp8 : Byte) : Statement (.cpyZp zp8) :=
  ofByte rfl ((instrLength_eq _).trans rfl)
theorem cpyAbs (abs16 : Word) : Statement (.cpyAbs abs16) :=
  ofWord rfl ((instrLength_eq _).trans rfl)
theorem bitZp (zp8 : Byte) : Statement (.bitZp zp8) :=
  ofByte rfl ((instrLength_eq _).trans rfl)
theorem bitAbs (abs16 : Word) : Statement (.bitAbs abs16) :=
  ofWord rfl ((instrLength_eq _).trans rfl)
theorem aslAcc : Statement (.aslAcc) :=
  ofNone rfl ((instrLength_eq _).trans rfl)
theorem aslZp (zp8 : Byte) : Statement (.aslZp zp8) :=
  ofByte rfl ((instrLength_eq _).trans rfl)
theorem aslZpx (zp8 : Byte) : Statement (.aslZpx zp8) :=
  ofByte rfl ((instrLength_eq _).trans rfl)
theorem aslAbs (abs16 : Word) : Statement (.aslAbs abs16) :=
  ofWord rfl ((instrLength_eq _).trans rfl)
theorem aslAbsx (abs16 : Word) : Statement (.aslAbsx abs16) :=
  ofWord rfl ((instrLength_eq _).trans rfl)
theorem lsrAcc : Statement (.lsrAcc) :=
  ofNone rfl ((instrLength_eq _).trans rfl)
theorem lsrZp (zp8 : Byte) : Statement (.lsrZp zp8) :=
  ofByte rfl ((instrLength_eq _).trans rfl)
theorem lsrZpx (zp8 : Byte) : Statement (.lsrZpx zp8) :=
  ofByte rfl ((instrLength_eq _).trans rfl)
theorem lsrAbs (abs16 : Word) : Statement (.lsrAbs abs16) :=
  ofWord rfl ((instrLength_eq _).trans rfl)
theorem lsrAbsx (abs16 : Word) : Statement (.lsrAbsx abs16) :=
  ofWord rfl ((instrLength_eq _).trans rfl)
theorem rolAcc : Statement (.rolAcc) :=
  ofNone rfl ((instrLength_eq _).trans rfl)
theorem rolZp (zp8 : Byte) : Statement (.rolZp zp8) :=
  ofByte rfl ((instrLength_eq _).trans rfl)
theorem rolZpx (zp8 : Byte) : Statement (.rolZpx zp8) :=
  ofByte rfl ((instrLength_eq _).trans rfl)
theorem rolAbs (abs16 : Word) : Statement (.rolAbs abs16) :=
  ofWord rfl ((instrLength_eq _).trans rfl)
theorem rolAbsx (abs16 : Word) : Statement (.rolAbsx abs16) :=
  ofWord rfl ((instrLength_eq _).trans rfl)
theorem rorAcc : Statement (.rorAcc) :=
  ofNone rfl ((instrLength_eq _).trans rfl)
theorem rorZp (zp8 : Byte) : Statement (.rorZp zp8) :=
  ofByte rfl ((instrLength_eq _).trans rfl)
theorem rorZpx (zp8 : Byte) : Statement (.rorZpx zp8) :=
  ofByte rfl ((instrLength_eq _).trans rfl)
theorem rorAbs (abs16 : Word) : Statement (.rorAbs abs16) :=
  ofWord rfl ((instrLength_eq _).trans rfl)
theorem rorAbsx (abs16 : Word) : Statement (.rorAbsx abs16) :=
  ofWord rfl ((instrLength_eq _).trans rfl)
theorem incZp (zp8 : Byte) : Statement (.incZp zp8) :=
  ofByte rfl ((instrLength_eq _).trans rfl)
theorem incZpx (zp8 : Byte) : Statement (.incZpx zp8) :=
  ofByte rfl ((instrLength_eq _).trans rfl)
theorem incAbs (abs16 : Word) : Statement (.incAbs abs16) :=
  ofWord rfl ((instrLength_eq _).trans rfl)
theorem incAbsx (abs16 : Word) : Statement (.incAbsx abs16) :=
  ofWord rfl ((instrLength_eq _).trans rfl)
theorem decZp (zp8 : Byte) : Statement (.decZp zp8) :=
  ofByte rfl ((instrLength_eq _).trans rfl)
theorem decZpx (zp8 : Byte) : Statement (.decZpx zp8) :=
  ofByte rfl ((instrLength_eq _).trans rfl)
theorem decAbs (abs16 : Word) : Statement (.decAbs abs16) :=
  ofWord rfl ((instrLength_eq _).trans rfl)
theorem decAbsx (abs16 : Word) : Statement (.decAbsx abs16) :=
  ofWord rfl ((instrLength_eq _).trans rfl)
theorem inx : Statement (.inx) :=
  ofNone rfl ((instrLength_eq _).trans rfl)
theorem iny : Statement (.iny) :=
  ofNone rfl ((instrLength_eq _).trans rfl)
theorem dex : Statement (.dex) :=
  ofNone rfl ((instrLength_eq _).trans rfl)
theorem dey : Statement (.dey) :=
  ofNone rfl ((instrLength_eq _).trans rfl)
theorem jmpAbs (abs16 : Word) : Statement (.jmpAbs abs16) :=
  ofWord rfl ((instrLength_eq _).trans rfl)
theorem jmpInd (abs16 : Word) : Statement (.jmpInd abs16) :=
  ofWord rfl ((instrLength_eq _).trans rfl)
theorem jsr (abs16 : Word) : Statement (.jsr abs16) :=
  ofWord rfl ((instrLength_eq _).trans rfl)
theorem rts : Statement (.rts) :=
  ofNone rfl ((instrLength_eq _).trans rfl)
theorem bcc (rel8 : Byte) : Statement (.bcc rel8) :=
  ofByte rfl ((instrLength_eq _).trans rfl)
theorem bcs (rel8 : Byte) : Statement (.bcs rel8) :=
  ofByte rfl ((instrLength_eq _).trans rfl)
theorem beq (rel8 : Byte) : Statement (.beq rel8) :=
  ofByte rfl ((instrLength_eq _).trans rfl)
theorem bne (rel8 : Byte) : Statement (.bne rel8) :=
  ofByte rfl ((instrLength_eq _).trans rfl)
theorem bmi (rel8 : Byte) : Statement (.bmi rel8) :=
  ofByte rfl ((instrLength_eq _).trans rfl)
theorem bpl (rel8 : Byte) : Statement (.bpl rel8) :=
  ofByte rfl ((instrLength_eq _).trans rfl)
theorem bvc (rel8 : Byte) : Statement (.bvc rel8) :=
  ofByte rfl ((instrLength_eq _).trans rfl)
theorem bvs (rel8 : Byte) : Statement (.bvs rel8) :=
  ofByte rfl ((instrLength_eq _).trans rfl)
theorem brk : Statement (.brk) :=
  ofNone rfl ((instrLength_eq _).trans rfl)
theorem rti : Statement (.rti) :=
  ofNone rfl ((instrLength_eq _).trans rfl)
theorem pha : Statement (.pha) :=
  ofNone rfl ((instrLength_eq _).trans rfl)
theorem php : Statement (.php) :=
  ofNone rfl ((instrLength_eq _).trans rfl)
theorem pla : Statement (.pla) :=
  ofNone rfl ((instrLength_eq _).trans rfl)
theorem plp : Statement (.plp) :=
  ofNone rfl ((instrLength_eq _).trans rfl)
theorem clc : Statement (.clc) :=
  ofNone rfl ((instrLength_eq _).trans rfl)
theorem sec : Statement (.sec) :=
  ofNone rfl ((instrLength_eq _).trans rfl)
theorem cli : Statement (.cli) :=
  ofNone rfl ((instrLength_eq _).trans rfl)
theorem sei : Statement (.sei) :=
  ofNone rfl ((instrLength_eq _).trans rfl)
theorem cld : Statement (.cld) :=
  ofNone rfl ((instrLength_eq _).trans rfl)
theorem sed : Statement (.sed) :=
  ofNone rfl ((instrLength_eq _).trans rfl)
theorem clv : Statement (.clv) :=
  ofNone rfl ((instrLength_eq _).trans rfl)
theorem nop : Statement (.nop) :=
  ofNone rfl ((instrLength_eq _).trans rfl)
theorem jam (opcode : Byte) : Statement (.jam opcode) :=
  fun h => ⟨_, _, rfl, (instrLength_undefined opcode (by simpa [Instr.wellFormed] using h)).symm⟩

end Sys2Proof.Laws.EncodeLength
end

