-- ==== Sys2Proof/Laws/Step.lean ====
section
/-! SUPPORT. The five cases of a step (40_step_and_addressing.md R120), each as one equation, and that there is no other:
`step_cases`. Later proofs cite these and do not unfold the step. -/

namespace Sys2Proof.Machine

variable {s : State}

/-- The instruction at an address in the terms of Safety.lean: the bytes decoded are what the bus answers to the fetches,
one after another. -/
theorem instrAt_eq (b : Bus) (pc : Word) :
    instrAt b pc = decodeBytes (peek b pc) (peek (b.after [.read pc]) (pc + 1))
      (peek (b.after [.read pc, .read (pc + 1)]) (pc + 2)) := rfl

theorem checkFetch_of_enabled {t : List Breakpoint} {a : Word} {b : Breakpoint} (h : breakpointAt t a = some b)
    (he : b.enabled = true) :
    checkFetch t a = (some b, match b.kind with | .hard => t | .soft => removeBreakpoint a t) := by
  unfold checkFetch
  cases hk : b.kind <;> simp [h, he, hk]

theorem checkFetch_of_none {t : List Breakpoint} {a : Word} (h : (breakpointAt t a).filter (·.enabled) = none) :
    checkFetch t a = (none, t) := by
  unfold checkFetch
  cases hb : breakpointAt t a with
  | none => rfl
  | some b =>
    have he : b.enabled = false := by simpa [hb, Option.filter] using h
    simp [he]

theorem sample_eq (h : (s.nmiPending || (s.nmiLine && !s.nmiPrev)) = false) :
    sampleLines (beginStep s) = { s with nmiPrev := s.nmiLine, nmiPending := false, watchHit := none, trace := [] } := by
  unfold sampleLines beginStep
  simp only [h]

theorem step_jammed (h : s.cpu.jammed = true) : step s = .next (jammedStep s) := by
  unfold step engineStep
  rw [if_pos h]

theorem step_nmi (hj : s.cpu.jammed = false) (h : NmiDue s) :
    step s = .next (finish (interruptSequence nmiVector s.atInterrupt)) := by
  unfold step engineStep serviceOrFetch
  have hp : (sampleLines (beginStep s)).nmiPending = true := h
  rw [if_neg (by simp [hj]), if_pos hp]
  rfl

theorem step_irq (hj : s.cpu.jammed = false) (h : ¬ NmiDue s) (hi : (s.irqLine && !s.cpu.p.i) = true) :
    step s = .next (finish (interruptSequence irqVector s.atInterrupt)) := by
  unfold step engineStep serviceOrFetch
  rw [if_neg (by simp [hj]), sample_eq (by simpa using h)]
  simp only [Bool.false_eq_true, if_false, hi, if_true]
  rfl

/-- A step that reaches the fetch stage is the fetch stage. -/
theorem step_fetch (h : ReachesFetch s) :
    step s = fetchStage { s with nmiPrev := s.nmiLine, watchHit := none, trace := [] } := by
  obtain ⟨hj, hp, he, hi⟩ := h
  unfold step engineStep serviceOrFetch
  rw [if_neg (by simp [hj]), sample_eq (by rw [hp, he]; rfl)]
  simp only [Bool.false_eq_true, if_false, hi]
  rw [← hp]

theorem step_trap (h : ReachesFetch s) (hs : s.bpSkip ≠ some s.cpu.pc) {b : Breakpoint}
    (hb : breakpointAt s.bps s.cpu.pc = some b) (he : b.enabled = true) :
    step s = .next (breakpointTrap { s.atFetch with
      bps := match b.kind with | .hard => s.bps | .soft => removeBreakpoint s.cpu.pc s.bps }) := by
  rw [step_fetch h]
  unfold fetchStage
  rw [if_neg hs]
  simp only [checkFetch_of_enabled hb he]
  rfl

theorem step_run (h : ReachesFetch s) (hn : NoBreakpoint s) : step s = runInstruction s.atFetch := by
  rw [step_fetch h]
  unfold fetchStage
  split
  · rfl
  · next hs =>
    simp only [checkFetch_of_none (hn.resolve_left hs)]
    rfl

/-- No state has a step of another kind. -/
theorem step_cases (s : State) :
    s.cpu.jammed = true ∨
    (s.cpu.jammed = false ∧ NmiDue s) ∨
    (s.cpu.jammed = false ∧ ¬ NmiDue s ∧ (s.irqLine && !s.cpu.p.i) = true) ∨
    (ReachesFetch s ∧ s.bpSkip ≠ some s.cpu.pc ∧ ∃ b, breakpointAt s.bps s.cpu.pc = some b ∧ b.enabled = true) ∨
    (ReachesFetch s ∧ NoBreakpoint s) := by
  by_cases hj : s.cpu.jammed = true
  · exact .inl hj
  have hj : s.cpu.jammed = false := by simpa using hj
  by_cases hn : NmiDue s
  · exact .inr (.inl ⟨hj, hn⟩)
  by_cases hi : (s.irqLine && !s.cpu.p.i) = true
  · exact .inr (.inr (.inl ⟨hj, hn, hi⟩))
  have hr : ReachesFetch s := by
    have hn : (s.nmiPending || (s.nmiLine && !s.nmiPrev)) = false := by simpa using hn
    rw [Bool.or_eq_false_iff] at hn
    exact ⟨hj, hn.1, hn.2, by simpa using hi⟩
  by_cases hs : s.bpSkip = some s.cpu.pc
  · exact .inr (.inr (.inr (.inr ⟨hr, .inl hs⟩)))
  cases hb : (breakpointAt s.bps s.cpu.pc).filter (·.enabled) with
  | none => exact .inr (.inr (.inr (.inr ⟨hr, .inr hb⟩)))
  | some b =>
    obtain ⟨h1, h2⟩ := Option.filter_eq_some_iff.1 hb
    exact .inr (.inr (.inr (.inl ⟨hr, hs, b, h1, h2⟩)))

/-- What a step that runs an instruction does, in the terms of `exec_uniform`. -/
theorem runInstruction_eq {i : Instr} {L F} (hu : Uniform i L F) (hi : instrAt s.bus s.cpu.pc = i) :
    runInstruction s.atFetch =
      .next (finish ((s.atFetch.perform (.read s.cpu.pc :: L s.fetched.view)).mapCpu fun c =>
        F s.fetched.view { c with pc := c.pc + 1 })) := by
  have hf : (fetch s.atFetch).2 = s.fetched := by rw [fetch_eq]; rfl
  unfold runInstruction
  rw [hf]
  show finishResult (exec (instrAt s.bus s.cpu.pc) s.fetched) = _
  rw [hi, hu.eq, State.fetched]
  simp only [finishResult, mapCpu_perform, perform_perform, mapCpu_mapCpu]
  rfl

/-- An instruction keeps `P.B`. -/
theorem Uniform.breakFlag {i : Instr} {L F} (hu : Uniform i L F) {v : State} {c : ProcessorState}
    (h : v.cpu.p.b = c.p.b) : (F v c).p.b = c.p.b := by
  have h1 := hu.fun_setB v c.p.b c
  rw [← h, show v.mapCpu (.setB v.cpu.p.b) = v from rfl, h, show c.setB c.p.b = c from rfl] at h1
  rw [h1]

/-- What a step that is neither jammed nor a breakpoint trap does: at least one and at most seven accesses and a change of
ProcessorState that keeps `P.B`, on the state with the latches sampled. -/
structure Ran (s u : State) (l : List Request) (f : ProcessorState → ProcessorState) : Prop where
  start : u = s.atInterrupt ∨ u = s.atFetch
  some : l ≠ []
  length : l.length ≤ 7
  breakFlag : (f s.cpu).p.b = s.cpu.p.b

theorem ran_interrupt (s : State) (vec : Word) :
    Ran s s.atInterrupt (interruptPushes s.atInterrupt ++ [.read vec, .read (vec + 1)]) fun c =>
      { c with
        sp := spMinus s.atInterrupt 3, p := { c.p with i := true }
        pc := vectorWord (interruptPushes s.atInterrupt) vec s.atInterrupt } :=
  ⟨.inl rfl, by simp, by simp [interruptPushes, entryPushes], rfl⟩

/-- The three shapes of a step. -/
theorem step_form (s : State) :
    (s.cpu.jammed = true ∧ step s = .next (jammedStep s)) ∨
    (s.cpu.jammed = false ∧ ReachesFetch s ∧ ∃ bps, (bps = s.bps ∨ bps = removeBreakpoint s.cpu.pc s.bps) ∧
      step s = .next (breakpointTrap { s.atFetch with bps := bps })) ∨
    (s.cpu.jammed = false ∧ ∃ u l f, Ran s u l f ∧ step s = .next (finish ((u.perform l).mapCpu f))) := by
  rcases step_cases s with h | ⟨hj, h⟩ | ⟨hj, h, hi⟩ | ⟨hr, hs, b, hb, he⟩ | ⟨hr, hn⟩
  · exact .inl ⟨h, step_jammed h⟩
  · refine .inr (.inr ⟨hj, _, _, _, ran_interrupt s nmiVector, ?_⟩)
    rw [step_nmi hj h, interruptSequence_after]
    rfl
  · refine .inr (.inr ⟨hj, _, _, _, ran_interrupt s irqVector, ?_⟩)
    rw [step_irq hj h hi, interruptSequence_after]
    rfl
  · refine .inr (.inl ⟨hr.1, hr, _, ?_, step_trap hr hs hb he⟩)
    cases b.kind
    · exact .inr rfl
    · exact .inl rfl
  · obtain ⟨L, F, hu⟩ := exec_uniform (instrAt s.bus s.cpu.pc)
    refine .inr (.inr ⟨hr.1, _, _, _, ⟨.inr rfl, ?_, ?_, ?_⟩, (step_run hr hn).trans (runInstruction_eq hu rfl)⟩)
    · simp
    · have := hu.length s.fetched.view
      simp
      omega
    · exact hu.breakFlag rfl

end Sys2Proof.Machine
end

