-- ==== Sys2Proof/Tests/Slice0.lean ====
section
/-! SUPPORT. Tests. Every expected value is the spec's: the encodings of the instruction rules, the vectors of
95_test_vectors.md and the examples of the rules. The `witness_` theorems show, for each obligation with hypotheses, a
concrete state and operands that meet them together. -/

namespace Sys2Proof.Tests

open Sys2Proof Sys2Proof.Machine

-- One theorem after another: many evaluations at once exhaust the thread limit of the sandbox.
set_option Elab.async false

/-- The flags of the vectors' start state: all clear but `P.B` (95_test_vectors.md, Conventions). -/
def clear : Flags := ⟨false, false, true, false, false, false, false⟩

/-- The registers of the vectors' start state; `start` sets `PC`. -/
def fresh : ProcessorState := { State.reset.cpu with p := clear }

/-- A start state: these bytes from `PC` upward, these registers, these other bytes of memory. -/
def start (pc : Word) (bytes : List Byte) (cpu : ProcessorState) (l : List (Word × Byte)) : State :=
  { State.reset with
    cpu := { cpu with pc := pc }
    bus := { Bus.reference with
      mem := (bytes.zipIdx.map (fun b => (pc + BitVec.ofNat 16 b.2, b.1)) ++ l).foldl (fun m c => m.write c.1 c.2) [] } }

/-- The state after a step. -/
def after (s : State) : State :=
  match step s with
  | .next t => t
  | .fault _ | .refused _ => s

/-- A read in an expected trace; its value is not compared. -/
def r (a : Word) : AccessKind × Word × Byte := (.read, a, 0)

/-- A write in an expected trace. -/
def w (a : Word) (v : Byte) : AccessKind × Word × Byte := (.write, a, v)

/-- The trace of the last step as the vectors list it. -/
def accesses (s : State) : List (AccessKind × Word × Byte) :=
  s.trace.map fun x => (x.kind, x.address, match x.kind with | .read => 0 | .write => x.value)

/-- One step of a vector: the registers, the packed status with bit 4 clear, the cycles and the accesses after it. -/
def vector (s : State) (a x y sp : Byte) (pc : Word) (p : Byte) (cycles : Nat)
    (l : List (AccessKind × Word × Byte)) : Bool :=
  let t := after s
  t.outcome == some .ok && t.cpu.a == a && t.cpu.x == x && t.cpu.y == y && t.cpu.sp == sp && t.cpu.pc == pc &&
    packP false t.cpu.p == p && t.cycles == cycles && accesses t == l

/-- Each list of bytes decodes to its instruction, whose encoding is those bytes and whose mnemonic is this one. -/
def decodes (m : Mnemonic) (l : List (List Byte × Instr)) : Bool :=
  l.all fun e => encode e.2 == e.1 && mnemonicOf e.2 == m &&
    match decode e.1 with
    | .ok (i, []) => i == e.2
    | _ => false

/-! ## Well-formedness and decoding -/

theorem test_illFormedJam_refused : (Instr.jam 0xEA).wellFormed = false ∧ (Instr.jam 0x00).wellFormed = false := by
  decide

theorem test_undefined_count : undefinedOpcodes.length = 105 := rfl

theorem test_jam_wellFormed : undefinedOpcodes.all (fun o => (Instr.jam o).wellFormed) = true := by
  decide +kernel

theorem test_decode_jam : undefinedOpcodes.all (fun o => decodes .jam [([o], .jam o)]) = true := by
  decide +kernel

theorem test_decode_short :
    decode [] = .error .noBytes ∧ decode [0xA9] = .error .truncated ∧
    decode [0x20, 0x00] = .error .truncated := ⟨rfl, rfl, rfl⟩

/-- The encodings of the rules of 41_load_store_transfer.md. -/
theorem test_decode_loadStore :
  decodes .lda [([0xA9, 0x9C], .ldaImm 0x9C), ([0xA5, 0x9C], .ldaZp 0x9C), ([0xB5, 0x9C], .ldaZpx 0x9C),
    ([0xAD, 0x34, 0xF2], .ldaAbs 0xF234), ([0xBD, 0x34, 0xF2], .ldaAbsx 0xF234),
    ([0xB9, 0x34, 0xF2], .ldaAbsy 0xF234), ([0xA1, 0x9C], .ldaIndx 0x9C), ([0xB1, 0x9C], .ldaIndy 0x9C)] = true ∧
  decodes .ldx [([0xA2, 0x9C], .ldxImm 0x9C), ([0xA6, 0x9C], .ldxZp 0x9C), ([0xB6, 0x9C], .ldxZpy 0x9C),
    ([0xAE, 0x34, 0xF2], .ldxAbs 0xF234), ([0xBE, 0x34, 0xF2], .ldxAbsy 0xF234)] = true ∧
  decodes .ldy [([0xA0, 0x9C], .ldyImm 0x9C), ([0xA4, 0x9C], .ldyZp 0x9C), ([0xB4, 0x9C], .ldyZpx 0x9C),
    ([0xAC, 0x34, 0xF2], .ldyAbs 0xF234), ([0xBC, 0x34, 0xF2], .ldyAbsx 0xF234)] = true ∧
  decodes .sta [([0x85, 0x9C], .staZp 0x9C), ([0x95, 0x9C], .staZpx 0x9C), ([0x8D, 0x34, 0xF2], .staAbs 0xF234),
    ([0x9D, 0x34, 0xF2], .staAbsx 0xF234), ([0x99, 0x34, 0xF2], .staAbsy 0xF234), ([0x81, 0x9C], .staIndx 0x9C),
    ([0x91, 0x9C], .staIndy 0x9C)] = true ∧
  decodes .stx [([0x86, 0x9C], .stxZp 0x9C), ([0x96, 0x9C], .stxZpy 0x9C),
    ([0x8E, 0x34, 0xF2], .stxAbs 0xF234)] = true ∧
  decodes .sty [([0x84, 0x9C], .styZp 0x9C), ([0x94, 0x9C], .styZpx 0x9C),
    ([0x8C, 0x34, 0xF2], .styAbs 0xF234)] = true ∧
  decodes .tax [([0xAA], .tax)] = true ∧
  decodes .tay [([0xA8], .tay)] = true ∧
  decodes .txa [([0x8A], .txa)] = true ∧
  decodes .tya [([0x98], .tya)] = true ∧
  decodes .tsx [([0xBA], .tsx)] = true ∧
  decodes .txs [([0x9A], .txs)] = true := by
  decide +kernel

/-- The encodings of the rules of 42_arithmetic_logic.md. -/
theorem test_decode_arith :
  decodes .adc [([0x69, 0x9C], .adcImm 0x9C), ([0x65, 0x9C], .adcZp 0x9C), ([0x75, 0x9C], .adcZpx 0x9C),
    ([0x6D, 0x34, 0xF2], .adcAbs 0xF234), ([0x7D, 0x34, 0xF2], .adcAbsx 0xF234),
    ([0x79, 0x34, 0xF2], .adcAbsy 0xF234), ([0x61, 0x9C], .adcIndx 0x9C), ([0x71, 0x9C], .adcIndy 0x9C)] = true ∧
  decodes .sbc [([0xE9, 0x9C], .sbcImm 0x9C), ([0xE5, 0x9C], .sbcZp 0x9C), ([0xF5, 0x9C], .sbcZpx 0x9C),
    ([0xED, 0x34, 0xF2], .sbcAbs 0xF234), ([0xFD, 0x34, 0xF2], .sbcAbsx 0xF234),
    ([0xF9, 0x34, 0xF2], .sbcAbsy 0xF234), ([0xE1, 0x9C], .sbcIndx 0x9C), ([0xF1, 0x9C], .sbcIndy 0x9C)] = true ∧
  decodes .and [([0x29, 0x9C], .andImm 0x9C), ([0x25, 0x9C], .andZp 0x9C), ([0x35, 0x9C], .andZpx 0x9C),
    ([0x2D, 0x34, 0xF2], .andAbs 0xF234), ([0x3D, 0x34, 0xF2], .andAbsx 0xF234),
    ([0x39, 0x34, 0xF2], .andAbsy 0xF234), ([0x21, 0x9C], .andIndx 0x9C), ([0x31, 0x9C], .andIndy 0x9C)] = true ∧
  decodes .ora [([0x09, 0x9C], .oraImm 0x9C), ([0x05, 0x9C], .oraZp 0x9C), ([0x15, 0x9C], .oraZpx 0x9C),
    ([0x0D, 0x34, 0xF2], .oraAbs 0xF234), ([0x1D, 0x34, 0xF2], .oraAbsx 0xF234),
    ([0x19, 0x34, 0xF2], .oraAbsy 0xF234), ([0x01, 0x9C], .oraIndx 0x9C), ([0x11, 0x9C], .oraIndy 0x9C)] = true ∧
  decodes .eor [([0x49, 0x9C], .eorImm 0x9C), ([0x45, 0x9C], .eorZp 0x9C), ([0x55, 0x9C], .eorZpx 0x9C),
    ([0x4D, 0x34, 0xF2], .eorAbs 0xF234), ([0x5D, 0x34, 0xF2], .eorAbsx 0xF234),
    ([0x59, 0x34, 0xF2], .eorAbsy 0xF234), ([0x41, 0x9C], .eorIndx 0x9C), ([0x51, 0x9C], .eorIndy 0x9C)] = true ∧
  decodes .cmp [([0xC9, 0x9C], .cmpImm 0x9C), ([0xC5, 0x9C], .cmpZp 0x9C), ([0xD5, 0x9C], .cmpZpx 0x9C),
    ([0xCD, 0x34, 0xF2], .cmpAbs 0xF234), ([0xDD, 0x34, 0xF2], .cmpAbsx 0xF234),
    ([0xD9, 0x34, 0xF2], .cmpAbsy 0xF234), ([0xC1, 0x9C], .cmpIndx 0x9C), ([0xD1, 0x9C], .cmpIndy 0x9C)] = true ∧
  decodes .cpx [([0xE0, 0x9C], .cpxImm 0x9C), ([0xE4, 0x9C], .cpxZp 0x9C),
    ([0xEC, 0x34, 0xF2], .cpxAbs 0xF234)] = true ∧
  decodes .cpy [([0xC0, 0x9C], .cpyImm 0x9C), ([0xC4, 0x9C], .cpyZp 0x9C),
    ([0xCC, 0x34, 0xF2], .cpyAbs 0xF234)] = true ∧
  decodes .bit [([0x24, 0x9C], .bitZp 0x9C), ([0x2C, 0x34, 0xF2], .bitAbs 0xF234)] = true := by
  decide +kernel

/-- The encodings of the rules of 43_shift_incdec.md. -/
theorem test_decode_shift :
  decodes .asl [([0x0A], .aslAcc), ([0x06, 0x9C], .aslZp 0x9C), ([0x16, 0x9C], .aslZpx 0x9C),
    ([0x0E, 0x34, 0xF2], .aslAbs 0xF234), ([0x1E, 0x34, 0xF2], .aslAbsx 0xF234)] = true ∧
  decodes .lsr [([0x4A], .lsrAcc), ([0x46, 0x9C], .lsrZp 0x9C), ([0x56, 0x9C], .lsrZpx 0x9C),
    ([0x4E, 0x34, 0xF2], .lsrAbs 0xF234), ([0x5E, 0x34, 0xF2], .lsrAbsx 0xF234)] = true ∧
  decodes .rol [([0x2A], .rolAcc), ([0x26, 0x9C], .rolZp 0x9C), ([0x36, 0x9C], .rolZpx 0x9C),
    ([0x2E, 0x34, 0xF2], .rolAbs 0xF234), ([0x3E, 0x34, 0xF2], .rolAbsx 0xF234)] = true ∧
  decodes .ror [([0x6A], .rorAcc), ([0x66, 0x9C], .rorZp 0x9C), ([0x76, 0x9C], .rorZpx 0x9C),
    ([0x6E, 0x34, 0xF2], .rorAbs 0xF234), ([0x7E, 0x34, 0xF2], .rorAbsx 0xF234)] = true ∧
  decodes .inc [([0xE6, 0x9C], .incZp 0x9C), ([0xF6, 0x9C], .incZpx 0x9C), ([0xEE, 0x34, 0xF2], .incAbs 0xF234),
    ([0xFE, 0x34, 0xF2], .incAbsx 0xF234)] = true ∧
  decodes .dec [([0xC6, 0x9C], .decZp 0x9C), ([0xD6, 0x9C], .decZpx 0x9C), ([0xCE, 0x34, 0xF2], .decAbs 0xF234),
    ([0xDE, 0x34, 0xF2], .decAbsx 0xF234)] = true ∧
  decodes .inx [([0xE8], .inx)] = true ∧
  decodes .iny [([0xC8], .iny)] = true ∧
  decodes .dex [([0xCA], .dex)] = true ∧
  decodes .dey [([0x88], .dey)] = true := by
  decide +kernel

/-- The encodings of the rules of 44_control_flow.md. -/
theorem test_decode_control :
  decodes .jmp [([0x4C, 0x34, 0xF2], .jmpAbs 0xF234)] = true ∧
  decodes .jmp [([0x6C, 0x34, 0xF2], .jmpInd 0xF234)] = true ∧
  decodes .jsr [([0x20, 0x34, 0xF2], .jsr 0xF234)] = true ∧
  decodes .rts [([0x60], .rts)] = true ∧
  decodes .bcc [([0x90, 0x9C], .bcc 0x9C)] = true ∧
  decodes .bcs [([0xB0, 0x9C], .bcs 0x9C)] = true ∧
  decodes .beq [([0xF0, 0x9C], .beq 0x9C)] = true ∧
  decodes .bne [([0xD0, 0x9C], .bne 0x9C)] = true ∧
  decodes .bmi [([0x30, 0x9C], .bmi 0x9C)] = true ∧
  decodes .bpl [([0x10, 0x9C], .bpl 0x9C)] = true ∧
  decodes .bvc [([0x50, 0x9C], .bvc 0x9C)] = true ∧
  decodes .bvs [([0x70, 0x9C], .bvs 0x9C)] = true := by
  decide +kernel

/-- The encodings of the rules of 44_control_flow.md. -/
theorem test_decode_control2 :
  decodes .brk [([0x00], .brk)] = true ∧
  decodes .rti [([0x40], .rti)] = true := by
  decide +kernel

/-- The encodings of the rules of 45_stack_flags_nop.md. -/
theorem test_decode_stack :
  decodes .pha [([0x48], .pha)] = true ∧
  decodes .php [([0x08], .php)] = true ∧
  decodes .pla [([0x68], .pla)] = true ∧
  decodes .plp [([0x28], .plp)] = true ∧
  decodes .clc [([0x18], .clc)] = true ∧
  decodes .sec [([0x38], .sec)] = true ∧
  decodes .cli [([0x58], .cli)] = true ∧
  decodes .sei [([0x78], .sei)] = true ∧
  decodes .cld [([0xD8], .cld)] = true ∧
  decodes .sed [([0xF8], .sed)] = true ∧
  decodes .clv [([0xB8], .clv)] = true ∧
  decodes .nop [([0xEA], .nop)] = true := by
  decide +kernel

/-- Bit 0 of a row's word is the least significant bit of the first byte. -/
theorem test_tableWord :
    decodeTableWord 8 0xEA = some .nop ∧ decodeTableWord 24 0x1234AD = some (.ldaAbs 0x1234) ∧
    decodeTableWord 8 0xAD = some (.ldaAbs 0x0000) ∧ decodeTableWord 16 0x42A9 = some (.ldaImm 0x42) :=
  ⟨rfl, rfl, rfl, rfl⟩

/-- Right after reset, and on a bus that is all devices. -/
theorem test_withFetchWord :
    (after (State.reset.withFetchWord 16 0x42A9)).cpu.a = 0x42 ∧
    (after ((setMap [⟨0, 0xFFFF, .device⟩] State.reset).withFetchWord 16 0x42A9)).cpu.a = 0x42 := by
  decide +kernel

/-- The examples of 30_encoding.md R100. -/
theorem test_render : render 0x0600 0xBD 0x34 0x12 = some "LDA $1234,X" ∧ branchOffset 0x0600 0x0605 = some 0x03 :=
  ⟨rfl, rfl⟩

/-! ## Vectors of 95_test_vectors.md -/

/-- Vectors LS1, LS2, LS3, LS4, LS5, LS7, LS8, LS9, LS11, LS12, LS13, LS14 of 95_test_vectors.md. -/
theorem test_vectors_loads1 :
  vector (start 0x0600 [0xA9, 0x00] { fresh with a := 0x55 } [])
    0x00 0x00 0x00 0xFD 0x0602 0x22 2 [r 0x0600, r 0x0601] = true ∧
  vector (start 0x0600 [0xA9, 0x80] fresh [])
    0x80 0x00 0x00 0xFD 0x0602 0xA0 2 [r 0x0600, r 0x0601] = true ∧
  vector (start 0x0600 [0xA5, 0x10] fresh [(0x0010, 0x7F)])
    0x7F 0x00 0x00 0xFD 0x0602 0x20 3 [r 0x0600, r 0x0601, r 0x0010] = true ∧
  vector (start 0x0600 [0xB5, 0xFF] { fresh with x := 0x02 } [(0x0001, 0xAA), (0x0101, 0xBB)])
    0xAA 0x02 0x00 0xFD 0x0602 0xA0 4 [r 0x0600, r 0x0601, r 0x00FF, r 0x0001] = true ∧
  vector (start 0x0600 [0xB6, 0xF0] { fresh with y := 0x20 } [(0x0010, 0x33)])
    0x00 0x33 0x20 0xFD 0x0602 0x20 4 [r 0x0600, r 0x0601, r 0x00F0, r 0x0010] = true ∧
  vector (start 0x0600 [0xBD, 0xF0, 0x10] { fresh with x := 0x20 } [(0x1110, 0x22)])
    0x22 0x20 0x00 0xFD 0x0603 0x20 5 [r 0x0600, r 0x0601, r 0x0602, r 0x1010, r 0x1110] = true ∧
  vector (start 0x0600 [0xBD, 0xFF, 0xFF] { fresh with x := 0x01 } [(0x0000, 0x99)])
    0x99 0x01 0x00 0xFD 0x0603 0xA0 5 [r 0x0600, r 0x0601, r 0x0602, r 0xFF00, r 0x0000] = true ∧
  vector (start 0x0600 [0xA1, 0xFE] { fresh with x := 0x01 } [(0x0000, 0x12), (0x00FF, 0x34), (0x0100, 0x77), (0x1234, 0x5A)])
    0x5A 0x01 0x00 0xFD 0x0602 0x20 6 [r 0x0600, r 0x0601, r 0x00FE, r 0x00FF, r 0x0000, r 0x1234] = true ∧
  vector (start 0x0600 [0xB1, 0xF0] { fresh with y := 0xFF } [(0x00F0, 0x02), (0x00F1, 0x20), (0x2101, 0x45)])
    0x45 0x00 0xFF 0xFD 0x0602 0x20 6 [r 0x0600, r 0x0601, r 0x00F0, r 0x00F1, r 0x2001, r 0x2101] = true ∧
  vector (start 0x0600 [0xB1, 0xFF] { fresh with y := 0x00 } [(0x0000, 0x30), (0x00FF, 0x00), (0x0100, 0x77), (0x3000, 0x46)])
    0x46 0x00 0x00 0xFD 0x0602 0x20 5 [r 0x0600, r 0x0601, r 0x00FF, r 0x0000, r 0x3000] = true ∧
  vector (start 0x0600 [0xBC, 0x00, 0x20] { fresh with x := 0x05, y := 0x09 } [(0x2005, 0x00)])
    0x00 0x05 0x00 0xFD 0x0603 0x22 4 [r 0x0600, r 0x0601, r 0x0602, r 0x2005] = true ∧
  vector (start 0x0600 [0x8D, 0x00, 0x02] { fresh with a := 0x42 } [])
    0x42 0x00 0x00 0xFD 0x0603 0x20 4 [r 0x0600, r 0x0601, r 0x0602, w 0x0200 0x42] = true := by
  decide +kernel

/-- Vectors LS15, LS16, LS17, LS18, LS19, LS20, LS21, LS22, LS23, LS24 of 95_test_vectors.md. -/
theorem test_vectors_loads2 :
  vector (start 0x0600 [0x9D, 0xF0, 0x10] { fresh with a := 0x42, x := 0x01 } [])
    0x42 0x01 0x00 0xFD 0x0603 0x20 5 [r 0x0600, r 0x0601, r 0x0602, r 0x10F1, w 0x10F1 0x42] = true ∧
  vector (start 0x0600 [0x99, 0xF0, 0x10] { fresh with a := 0x42, y := 0x20 } [])
    0x42 0x00 0x20 0xFD 0x0603 0x20 5 [r 0x0600, r 0x0601, r 0x0602, r 0x1010, w 0x1110 0x42] = true ∧
  vector (start 0x0600 [0x91, 0xF0] { fresh with a := 0x42, y := 0x10 } [(0x00F0, 0xF8), (0x00F1, 0x20)])
    0x42 0x00 0x10 0xFD 0x0602 0x20 6 [r 0x0600, r 0x0601, r 0x00F0, r 0x00F1, r 0x2008, w 0x2108 0x42] = true ∧
  vector (start 0x0600 [0x81, 0x10] { fresh with a := 0x42, x := 0x04 } [(0x0014, 0x00), (0x0015, 0x03)])
    0x42 0x04 0x00 0xFD 0x0602 0x20 6 [r 0x0600, r 0x0601, r 0x0010, r 0x0014, r 0x0015, w 0x0300 0x42] = true ∧
  vector (start 0x0600 [0x96, 0x10] { fresh with x := 0x77, y := 0x01 } [])
    0x00 0x77 0x01 0xFD 0x0602 0x20 4 [r 0x0600, r 0x0601, r 0x0010, w 0x0011 0x77] = true ∧
  vector (start 0x0600 [0x94, 0x10] { fresh with y := 0x00, x := 0x01, p := { clear with z := false, n := true } } [])
    0x00 0x01 0x00 0xFD 0x0602 0xA0 4 [r 0x0600, r 0x0601, r 0x0010, w 0x0011 0x00] = true ∧
  vector (start 0x0600 [0xAA] { fresh with a := 0x80 } [])
    0x80 0x80 0x00 0xFD 0x0601 0xA0 2 [r 0x0600, r 0x0601] = true ∧
  vector (start 0x0600 [0x9A] { fresh with x := 0x00, p := { clear with z := false, n := true } } [])
    0x00 0x00 0x00 0x00 0x0601 0xA0 2 [r 0x0600, r 0x0601] = true ∧
  vector (start 0x0600 [0xBA] { fresh with sp := 0x00 } [])
    0x00 0x00 0x00 0x00 0x0601 0x22 2 [r 0x0600, r 0x0601] = true ∧
  vector (start 0x0600 [0x98] { fresh with y := 0x00, a := 0x33 } [])
    0x00 0x00 0x00 0xFD 0x0601 0x22 2 [r 0x0600, r 0x0601] = true := by
  decide +kernel

/-- Vectors AL2, AL7, AL10, AL17, AL21, AL22, AL23, AL25, AL27, AL28, AL29, AL30 of 95_test_vectors.md. -/
theorem test_vectors_arith1 :
  vector (start 0x0600 [0x69, 0x01] { fresh with a := 0x7F } [])
    0x80 0x00 0x00 0xFD 0x0602 0xE0 2 [r 0x0600, r 0x0601] = true ∧
  vector (start 0x0600 [0xE9, 0x01] { fresh with a := 0x80, p := { clear with c := true } } [])
    0x7F 0x00 0x00 0xFD 0x0602 0x61 2 [r 0x0600, r 0x0601] = true ∧
  vector (start 0x0600 [0x69, 0x46] { fresh with a := 0x58, p := { clear with c := true, d := true } } [])
    0x05 0x00 0x00 0xFD 0x0602 0xE9 2 [r 0x0600, r 0x0601] = true ∧
  vector (start 0x0600 [0xE9, 0x21] { fresh with a := 0x12, p := { clear with c := true, d := true } } [])
    0x91 0x00 0x00 0xFD 0x0602 0xA8 2 [r 0x0600, r 0x0601] = true ∧
  vector (start 0x0600 [0x29, 0x0F] { fresh with a := 0xF0 } [])
    0x00 0x00 0x00 0xFD 0x0602 0x22 2 [r 0x0600, r 0x0601] = true ∧
  vector (start 0x0600 [0x05, 0x10] { fresh with a := 0x01 } [(0x0010, 0x80)])
    0x81 0x00 0x00 0xFD 0x0602 0xA0 3 [r 0x0600, r 0x0601, r 0x0010] = true ∧
  vector (start 0x0600 [0x49, 0xFF] { fresh with a := 0xFF } [])
    0x00 0x00 0x00 0xFD 0x0602 0x22 2 [r 0x0600, r 0x0601] = true ∧
  vector (start 0x0600 [0xC9, 0x00] { fresh with a := 0x80 } [])
    0x80 0x00 0x00 0xFD 0x0602 0xA1 2 [r 0x0600, r 0x0601] = true ∧
  vector (start 0x0600 [0xC9, 0x01] { fresh with a := 0x10, p := { clear with d := true } } [])
    0x10 0x00 0x00 0xFD 0x0602 0x29 2 [r 0x0600, r 0x0601] = true ∧
  vector (start 0x0600 [0xE0, 0x05] { fresh with x := 0x04 } [])
    0x00 0x04 0x00 0xFD 0x0602 0xA0 2 [r 0x0600, r 0x0601] = true ∧
  vector (start 0x0600 [0xC4, 0x10] { fresh with y := 0xFF } [(0x0010, 0xFF)])
    0x00 0x00 0xFF 0xFD 0x0602 0x23 3 [r 0x0600, r 0x0601, r 0x0010] = true ∧
  vector (start 0x0600 [0x24, 0x10] { fresh with a := 0x3F } [(0x0010, 0xC0)])
    0x3F 0x00 0x00 0xFD 0x0602 0xE2 3 [r 0x0600, r 0x0601, r 0x0010] = true := by
  decide +kernel

/-- Vectors AL31 of 95_test_vectors.md. -/
theorem test_vectors_arith2 :
  vector (start 0x0600 [0x2C, 0x00, 0x20] { fresh with a := 0x01, p := { clear with n := true } } [(0x2000, 0x41)])
    0x01 0x00 0x00 0xFD 0x0603 0x60 4 [r 0x0600, r 0x0601, r 0x0602, r 0x2000] = true := by
  decide +kernel

/-- Vectors SH1, SH2, SH3, SH4, SH5, SH6, SH7, SH8, SH9, SH10, SH11, SH12 of 95_test_vectors.md. -/
theorem test_vectors_shift1 :
  vector (start 0x0600 [0x0A] { fresh with a := 0x80 } [])
    0x00 0x00 0x00 0xFD 0x0601 0x23 2 [r 0x0600, r 0x0601] = true ∧
  vector (start 0x0600 [0x0A] { fresh with a := 0x41, p := { clear with c := true } } [])
    0x82 0x00 0x00 0xFD 0x0601 0xA0 2 [r 0x0600, r 0x0601] = true ∧
  vector (start 0x0600 [0x4A] { fresh with a := 0x01, p := { clear with n := true } } [])
    0x00 0x00 0x00 0xFD 0x0601 0x23 2 [r 0x0600, r 0x0601] = true ∧
  vector (start 0x0600 [0x2A] { fresh with a := 0x80, p := { clear with c := false } } [])
    0x00 0x00 0x00 0xFD 0x0601 0x23 2 [r 0x0600, r 0x0601] = true ∧
  vector (start 0x0600 [0x2A] { fresh with a := 0x40, p := { clear with c := true } } [])
    0x81 0x00 0x00 0xFD 0x0601 0xA0 2 [r 0x0600, r 0x0601] = true ∧
  vector (start 0x0600 [0x6A] { fresh with a := 0x01, p := { clear with c := false } } [])
    0x00 0x00 0x00 0xFD 0x0601 0x23 2 [r 0x0600, r 0x0601] = true ∧
  vector (start 0x0600 [0x6A] { fresh with a := 0x00, p := { clear with c := true } } [])
    0x80 0x00 0x00 0xFD 0x0601 0xA0 2 [r 0x0600, r 0x0601] = true ∧
  vector (start 0x0600 [0x06, 0x10] fresh [(0x0010, 0xC0)])
    0x00 0x00 0x00 0xFD 0x0602 0xA1 5 [r 0x0600, r 0x0601, r 0x0010, w 0x0010 0xC0, w 0x0010 0x80] = true ∧
  vector (start 0x0600 [0x7E, 0xF0, 0x10] { fresh with x := 0x20, p := { clear with c := true } } [(0x1110, 0x02)])
    0x00 0x20 0x00 0xFD 0x0603 0xA0 7 [r 0x0600, r 0x0601, r 0x0602, r 0x1010, r 0x1110, w 0x1110 0x02, w 0x1110 0x81] = true ∧
  vector (start 0x0600 [0x56, 0x10] { fresh with x := 0xF8 } [(0x0008, 0xFF)])
    0x00 0xF8 0x00 0xFD 0x0602 0x21 6 [r 0x0600, r 0x0601, r 0x0010, r 0x0008, w 0x0008 0xFF, w 0x0008 0x7F] = true ∧
  vector (start 0x0600 [0xEE, 0x00, 0x02] fresh [(0x0200, 0xFF)])
    0x00 0x00 0x00 0xFD 0x0603 0x22 6 [r 0x0600, r 0x0601, r 0x0602, r 0x0200, w 0x0200 0xFF, w 0x0200 0x00] = true ∧
  vector (start 0x0600 [0xE6, 0x10] { fresh with p := { clear with v := false, c := true } } [(0x0010, 0x7F)])
    0x00 0x00 0x00 0xFD 0x0602 0xA1 5 [r 0x0600, r 0x0601, r 0x0010, w 0x0010 0x7F, w 0x0010 0x80] = true := by
  decide +kernel

/-- Vectors SH13, SH14, SH15, SH16, SH17, SH18 of 95_test_vectors.md. -/
theorem test_vectors_shift2 :
  vector (start 0x0600 [0xC6, 0x10] fresh [(0x0010, 0x00)])
    0x00 0x00 0x00 0xFD 0x0602 0xA0 5 [r 0x0600, r 0x0601, r 0x0010, w 0x0010 0x00, w 0x0010 0xFF] = true ∧
  vector (start 0x0600 [0xDE, 0x00, 0x20] { fresh with x := 0x01 } [(0x2001, 0x01)])
    0x00 0x01 0x00 0xFD 0x0603 0x22 7 [r 0x0600, r 0x0601, r 0x0602, r 0x2001, r 0x2001, w 0x2001 0x01, w 0x2001 0x00] = true ∧
  vector (start 0x0600 [0xE8] { fresh with x := 0xFF } [])
    0x00 0x00 0x00 0xFD 0x0601 0x22 2 [r 0x0600, r 0x0601] = true ∧
  vector (start 0x0600 [0x88] { fresh with y := 0x00 } [])
    0x00 0x00 0xFF 0xFD 0x0601 0xA0 2 [r 0x0600, r 0x0601] = true ∧
  vector (start 0x0600 [0xCA] { fresh with x := 0x01 } [])
    0x00 0x00 0x00 0xFD 0x0601 0x22 2 [r 0x0600, r 0x0601] = true ∧
  vector (start 0x0600 [0xC8] { fresh with y := 0x7F } [])
    0x00 0x00 0x80 0xFD 0x0601 0xA0 2 [r 0x0600, r 0x0601] = true := by
  decide +kernel

/-- Vectors CF1, CF2, CF3, CF4, CF5, CF6, CF7, CF8, CF9, CF11, CF12, CF13 of 95_test_vectors.md. -/
theorem test_vectors_control1 :
  vector (start 0x0600 [0xD0, 0x02] { fresh with p := { clear with z := true } } [])
    0x00 0x00 0x00 0xFD 0x0602 0x22 2 [r 0x0600, r 0x0601] = true ∧
  vector (start 0x0600 [0xD0, 0x02] { fresh with p := { clear with z := false } } [])
    0x00 0x00 0x00 0xFD 0x0604 0x20 3 [r 0x0600, r 0x0601, r 0x0602] = true ∧
  vector (start 0x06F0 [0xF0, 0x10] { fresh with p := { clear with z := true } } [])
    0x00 0x00 0x00 0xFD 0x0702 0x22 4 [r 0x06F0, r 0x06F1, r 0x06F2, r 0x0602] = true ∧
  vector (start 0x0600 [0x10, 0x80] { fresh with p := { clear with n := false } } [])
    0x00 0x00 0x00 0xFD 0x0582 0x20 4 [r 0x0600, r 0x0601, r 0x0602, r 0x0682] = true ∧
  vector (start 0x0600 [0xB0, 0xFE] { fresh with p := { clear with c := true } } [])
    0x00 0x00 0x00 0xFD 0x0600 0x21 3 [r 0x0600, r 0x0601, r 0x0602] = true ∧
  vector (start 0x0600 [0x90, 0x00] { fresh with p := { clear with c := false } } [])
    0x00 0x00 0x00 0xFD 0x0602 0x20 3 [r 0x0600, r 0x0601, r 0x0602] = true ∧
  vector (start 0x0600 [0x70, 0x05] { fresh with p := { clear with v := false } } [])
    0x00 0x00 0x00 0xFD 0x0602 0x20 2 [r 0x0600, r 0x0601] = true ∧
  vector (start 0x0600 [0x30, 0x7F] { fresh with p := { clear with n := true } } [])
    0x00 0x00 0x00 0xFD 0x0681 0xA0 3 [r 0x0600, r 0x0601, r 0x0602] = true ∧
  vector (start 0xFFF0 [0x50, 0x7F] { fresh with p := { clear with v := false } } [])
    0x00 0x00 0x00 0xFD 0x0071 0x20 4 [r 0xFFF0, r 0xFFF1, r 0xFFF2, r 0xFF71] = true ∧
  vector (start 0x06FE [0xF0, 0x01] { fresh with p := { clear with z := true } } [])
    0x00 0x00 0x00 0xFD 0x0701 0x22 3 [r 0x06FE, r 0x06FF, r 0x0700] = true ∧
  vector (start 0x0600 [0x4C, 0x34, 0x12] fresh [])
    0x00 0x00 0x00 0xFD 0x1234 0x20 3 [r 0x0600, r 0x0601, r 0x0602] = true ∧
  vector (start 0x0600 [0x6C, 0xFF, 0x12] fresh [(0x1200, 0x56), (0x12FF, 0x34), (0x1300, 0x99)])
    0x00 0x00 0x00 0xFD 0x5634 0x20 5 [r 0x0600, r 0x0601, r 0x0602, r 0x12FF, r 0x1200] = true := by
  decide +kernel

/-- Vectors CF14, CF15, CF16, CF17, CF18, CF19, CF20, CF21, CF22 of 95_test_vectors.md. -/
theorem test_vectors_control2 :
  vector (start 0x0600 [0x6C, 0x80, 0x12] fresh [(0x1280, 0x78), (0x1281, 0x56)])
    0x00 0x00 0x00 0xFD 0x5678 0x20 5 [r 0x0600, r 0x0601, r 0x0602, r 0x1280, r 0x1281] = true ∧
  vector (start 0x0600 [0x20, 0x00, 0x07] fresh [])
    0x00 0x00 0x00 0xFB 0x0700 0x20 6 [r 0x0600, r 0x0601, r 0x01FD, w 0x01FD 0x06, w 0x01FC 0x02, r 0x0602] = true ∧
  vector (start 0x0600 [0x20, 0x00, 0x07] { fresh with sp := 0x00 } [])
    0x00 0x00 0x00 0xFE 0x0700 0x20 6 [r 0x0600, r 0x0601, r 0x0100, w 0x0100 0x06, w 0x01FF 0x02, r 0x0602] = true ∧
  vector (start 0x0600 [0x60] { fresh with sp := 0xFB } [(0x01FC, 0x02), (0x01FD, 0x06)])
    0x00 0x00 0x00 0xFD 0x0603 0x20 6 [r 0x0600, r 0x0601, r 0x01FB, r 0x01FC, r 0x01FD, r 0x0602] = true ∧
  vector (start 0x0600 [0x60] { fresh with sp := 0xFB } [(0x01FC, 0xFF), (0x01FD, 0xFF)])
    0x00 0x00 0x00 0xFD 0x0000 0x20 6 [r 0x0600, r 0x0601, r 0x01FB, r 0x01FC, r 0x01FD, r 0xFFFF] = true ∧
  vector (start 0x0600 [0x00, 0xEA] { fresh with p := { clear with z := true, c := true } } [(0xFFFE, 0x00), (0xFFFF, 0x80)])
    0x00 0x00 0x00 0xFA 0x8000 0x27 7 [r 0x0600, r 0x0601, w 0x01FD 0x06, w 0x01FC 0x02, w 0x01FB 0x33, r 0xFFFE, r 0xFFFF] = true ∧
  vector (start 0x0600 [0x00] { fresh with p := { clear with i := true, d := true } } [(0xFFFE, 0x00), (0xFFFF, 0x80)])
    0x00 0x00 0x00 0xFA 0x8000 0x2C 7 [r 0x0600, r 0x0601, w 0x01FD 0x06, w 0x01FC 0x02, w 0x01FB 0x3C, r 0xFFFE, r 0xFFFF] = true ∧
  vector (start 0x8000 [0x40] { fresh with sp := 0xFA, p := { clear with i := true } } [(0x01FB, 0x33), (0x01FC, 0x02), (0x01FD, 0x06)])
    0x00 0x00 0x00 0xFD 0x0602 0x23 6 [r 0x8000, r 0x8001, r 0x01FA, r 0x01FB, r 0x01FC, r 0x01FD] = true ∧
  vector (start 0x8000 [0x40] { fresh with sp := 0xFA } [(0x01FB, 0xFF), (0x01FC, 0x00), (0x01FD, 0x10)])
    0x00 0x00 0x00 0xFD 0x1000 0xEF 6 [r 0x8000, r 0x8001, r 0x01FA, r 0x01FB, r 0x01FC, r 0x01FD] = true := by
  decide +kernel

/-- Vectors SF1, SF2, SF3, SF4, SF5, SF6, SF7, SF8, SF9, SF10, SF11, SF12 of 95_test_vectors.md. -/
theorem test_vectors_stack1 :
  vector (start 0x0600 [0x48] { fresh with a := 0x42 } [])
    0x42 0x00 0x00 0xFC 0x0601 0x20 3 [r 0x0600, r 0x0601, w 0x01FD 0x42] = true ∧
  vector (start 0x0600 [0x48] { fresh with a := 0x42, sp := 0x00 } [])
    0x42 0x00 0x00 0xFF 0x0601 0x20 3 [r 0x0600, r 0x0601, w 0x0100 0x42] = true ∧
  vector (start 0x0600 [0x08] { fresh with p := { clear with n := true, c := true } } [])
    0x00 0x00 0x00 0xFC 0x0601 0xA1 3 [r 0x0600, r 0x0601, w 0x01FD 0xB1] = true ∧
  vector (start 0x0600 [0x68] { fresh with sp := 0xFC } [(0x01FD, 0x80)])
    0x80 0x00 0x00 0xFD 0x0601 0xA0 4 [r 0x0600, r 0x0601, r 0x01FC, r 0x01FD] = true ∧
  vector (start 0x0600 [0x68] { fresh with sp := 0xFF, a := 0x11 } [(0x0100, 0x00)])
    0x00 0x00 0x00 0x00 0x0601 0x22 4 [r 0x0600, r 0x0601, r 0x01FF, r 0x0100] = true ∧
  vector (start 0x0600 [0x28] { fresh with sp := 0xFC } [(0x01FD, 0xFF)])
    0x00 0x00 0x00 0xFD 0x0601 0xEF 4 [r 0x0600, r 0x0601, r 0x01FC, r 0x01FD] = true ∧
  vector (start 0x0600 [0x28] { fresh with sp := 0xFC, p := { clear with n := true, v := true, d := true, i := true, z := true, c := true } } [(0x01FD, 0x00)])
    0x00 0x00 0x00 0xFD 0x0601 0x20 4 [r 0x0600, r 0x0601, r 0x01FC, r 0x01FD] = true ∧
  vector (start 0x0600 [0x18] { fresh with p := { clear with c := true } } [])
    0x00 0x00 0x00 0xFD 0x0601 0x20 2 [r 0x0600, r 0x0601] = true ∧
  vector (start 0x0600 [0x38] fresh [])
    0x00 0x00 0x00 0xFD 0x0601 0x21 2 [r 0x0600, r 0x0601] = true ∧
  vector (start 0x0600 [0x58] { fresh with p := { clear with i := true } } [])
    0x00 0x00 0x00 0xFD 0x0601 0x20 2 [r 0x0600, r 0x0601] = true ∧
  vector (start 0x0600 [0x78] fresh [])
    0x00 0x00 0x00 0xFD 0x0601 0x24 2 [r 0x0600, r 0x0601] = true ∧
  vector (start 0x0600 [0xD8] { fresh with p := { clear with d := true } } [])
    0x00 0x00 0x00 0xFD 0x0601 0x20 2 [r 0x0600, r 0x0601] = true := by
  decide +kernel

/-- Vectors SF13, SF14, SF15 of 95_test_vectors.md. -/
theorem test_vectors_stack2 :
  vector (start 0x0600 [0xF8] fresh [])
    0x00 0x00 0x00 0xFD 0x0601 0x28 2 [r 0x0600, r 0x0601] = true ∧
  vector (start 0x0600 [0xB8] { fresh with p := { clear with v := true } } [])
    0x00 0x00 0x00 0xFD 0x0601 0x20 2 [r 0x0600, r 0x0601] = true ∧
  vector (start 0x0600 [0xEA] fresh [])
    0x00 0x00 0x00 0xFD 0x0601 0x20 2 [r 0x0600, r 0x0601] = true := by
  decide +kernel

/-! ## Machine tests -/

/-- 44_control_flow.md R233: the third byte at 0x01FC is overwritten by the push of 0xFC before it is read. -/
theorem test_jsr_readsPushedByte : (after (start 0x01FA [0x20, 0x34, 0x12] fresh [])).cpu.pc = 0xFC34 := by
  decide +kernel

/-- Vector 1.1, step 2: the watchpoint is reported with the value already written. -/
theorem test_watchpoint_afterWrite :
    let t := after (setWatchpoint 0x0200 .write (start 0x0602 [0x8D, 0x00, 0x02] { fresh with a := 0x42 } []))
    t.outcome = some (.trapped ⟨0x0200, .watchpoint, { fresh with a := 0x42, pc := 0x0605 }⟩) ∧
      t.bus.mem.read 0x0200 = 0x42 := by
  decide +kernel

/-- Vector DB4: the first match of the step is reported. -/
theorem test_watchpoint_first :
    (after (setWatchpoint 0x0601 .read (setWatchpoint 0x0200 .write
      (start 0x0600 [0xEE, 0x00, 0x02] fresh [(0x0200, 0x41)])))).watchHit = some 0x0601 := by
  decide +kernel

/-- Vector 1.3: the jam outranks the read watchpoint; the next step changes nothing. -/
def jammed : State := after (setWatchpoint 0x0600 .read (start 0x0600 [0x02] fresh []))

theorem test_jam_outcome :
    jammed.outcome = some .jammed ∧ jammed.cpu = { fresh with pc := 0x0600, jammed := true } ∧ jammed.cycles = 1 := by
  decide +kernel

/-- Vector 1.4, steps 3 and 4. -/
def trapped : State := after (setBreakpoint 0x0605 .hard (start 0x0605 [0xEE, 0x00, 0x02] fresh [(0x0200, 1)]))

theorem test_breakpoint_trap :
    trapped.outcome = some (.trapped ⟨0x0605, .breakpoint, { fresh with pc := 0x0605 }⟩) ∧ trapped.cycles = 0 ∧
      trapped.bpSkip = some 0x0605 ∧ trapped.bus.mem.read 0x0200 = 1 := by
  decide +kernel

theorem test_breakpoint_resume : (after trapped).cpu.pc = 0x0608 ∧ (after trapped).bus.mem.read 0x0200 = 2 := by
  decide +kernel

/-- The start state of the vectors IN1 step 2, IN4 step 1, with the vectors of both handlers. -/
def handlers : List (Word × Byte) := [(0xFFFA, 0x00), (0xFFFB, 0xA0), (0xFFFE, 0x00), (0xFFFF, 0x90)]

def irqState : State :=
  setLines true false (start 0x0601 [0xEA] { fresh with p := { clear with d := true, z := true, c := true } } handlers)

def nmiState : State := setLines true true (start 0x0600 [0xEA] fresh handlers)

theorem test_irq :
    vector irqState 0 0 0 0xFA 0x9000 0x2F 7
      [r 0x0601, r 0x0601, w 0x01FD 0x06, w 0x01FC 0x01, w 0x01FB 0x2B, r 0xFFFE, r 0xFFFF] = true := by
  decide +kernel

theorem test_nmi_beforeIrq :
    vector nmiState 0 0 0 0xFA 0xA000 0x24 7
      [r 0x0600, r 0x0600, w 0x01FD 0x06, w 0x01FC 0x00, w 0x01FB 0x20, r 0xFFFA, r 0xFFFB] = true := by
  decide +kernel

/-- Vector 1.2. -/
theorem test_reset :
    let t := resetProcessor { jammed with bus := { jammed.bus with mem := [(0xFFFD, 0x06)] }, cycles := 999 }
    t.cpu.pc = 0x0600 ∧ packP t.cpu.p.b t.cpu.p = 0x34 ∧ t.cycles = 0 ∧ t.wps = jammed.wps := by
  decide +kernel

theorem test_reset_isPowerOn : resetProcessor State.reset = State.reset := rfl

/-- A map of RAM with ROM from 0xE000 and a device at 0xD000 to 0xDFFF (20_memory.md R61). -/
def mixedMap : List BusRegion := [⟨0xD000, 0xDFFF, .device⟩, ⟨0xE000, 0xFFFF, .rom⟩]

/-- ROM does not take a write, which the trace still shows. -/
theorem test_romIgnoresWrite :
    let t := after (setMap mixedMap (start 0x0600 [0x8D, 0x00, 0xE0] { fresh with a := 0x42 } [(0xE000, 0x11)]))
    peek t.bus 0xE000 = 0x11 ∧ t.trace.getLast? = some ⟨.write, 0xE000, 0x42⟩ := by
  decide +kernel

/-- A device meets the dummy read at `early` and the data read, in that order (70_reset_and_hazards.md R358, 5). -/
theorem test_deviceMeetsDummyRead :
    (after (setMap mixedMap (start 0x0600 [0xBD, 0xFF, 0xD0] { fresh with x := 1 } []))).bus.events =
      [.read 0xD000, .read 0xD100] := by
  decide +kernel

/-- The byte loaded is what the device answers after the dummy read. -/
theorem test_deviceAnswers :
    (after (setMap mixedMap (start 0x0600 [0xBD, 0xFF, 0xD0] { fresh with x := 1 } []))).cpu.a =
      Config.deviceAnswer [.read 0xD000] 0xD100 := rfl

/-- `Peek` leaves the device as it is (20_memory.md R66). -/
theorem test_peekHasNoSideEffect :
    (singleStep (setMap mixedMap (start 0xD000 [] fresh []))).bus = (setMap mixedMap (start 0xD000 [] fresh [])).bus := by
  decide +kernel

/-- Vector DB9: `singleStep()` arms the address after the instruction. -/
theorem test_singleStep :
    (singleStep (start 0x0600 [0xA9, 0x01] fresh [])).bps = [⟨0x0602, .soft, true⟩] ∧
      (setBreakpoint 0x0602 .hard (singleStep (start 0x0600 [0xA9, 0x01] fresh []))).stepArmed = [] := by
  decide +kernel

/-! ## Witnesses of the obligations' hypotheses -/

theorem witness_DecodeAfterEncodeIsIdentity :
    (Instr.adcAbsx 0xFFFF).wellFormed = true ∧ (Instr.jam 0xFF).wellFormed = true := by
  decide

theorem witness_EncodeAfterDecodeIsIdentity :
    decode [0x7D, 0xFF, 0xFF, 0x00] = .ok (.adcAbsx 0xFFFF, [0x00]) ∧ decode [0xFF] = .ok (.jam 0xFF, []) := ⟨rfl, rfl⟩

theorem witness_DecoderIsTotalByOpcode : (0x02 : Byte) ∈ undefinedOpcodes ∧ (0xFF : Byte) ∈ undefinedOpcodes := by
  decide

/-- `X = 1`. -/
def indexed : State := start 0x0600 [0xBD, 0xFF, 0xFF] { fresh with x := 1, y := 1 } []

/-- The last index that does not cross, and the first that does. -/
theorem witness_OperandAccess :
    earlyAddress (.absx 0xFFFE) indexed = some 0xFFFF ∧ pageCrossed (.absx 0xFFFE) indexed = false ∧
    earlyAddress (.absx 0xFFFF) indexed = some 0xFF00 ∧ pageCrossed (.absx 0xFFFF) indexed = true := by
  decide

theorem witness_LoadsSetARegister :
    ldaForm (.mem (.indy 0xFF)) = some (0xB1, .ldaIndy 0xFF) ∧ ldaForm (.imm 0x80) = some (0xA9, .ldaImm 0x80) ∧
    ldxForm (.mem (.zpy 0xFF)) = some (0xB6, .ldxZpy 0xFF) ∧
    ldyForm (.mem (.absx 0xFFFF)) = some (0xBC, .ldyAbsx 0xFFFF) := ⟨rfl, rfl, rfl, rfl⟩

theorem witness_StoresWriteARegister :
    staForm (.absx 0xFFFF) = some (0x9D, .staAbsx 0xFFFF) ∧ stxForm (.zpy 0xFF) = some (0x96, .stxZpy 0xFF) ∧
    styForm (.zpx 0xFF) = some (0x94, .styZpx 0xFF) ∧
    (setMap mixedMap indexed).bus.target (effectiveAddress (.absx 0xFFFF) (setMap mixedMap indexed)) = .ram := ⟨rfl, rfl, rfl, rfl⟩

theorem witness_TransfersAndIndexCounts :
    (0x9A, Instr.txs, { fresh with sp := fresh.x }) ∈ [
      (0xBA, Instr.tsx, { fresh with x := fresh.sp, p := withZN fresh.sp fresh.p }),
      ((0x9A : Byte), Instr.txs, { fresh with sp := fresh.x })] := by
  decide

/-- Decimal mode. -/
def decimal : State := start 0x0600 [0x69, 0x99] { fresh with a := 0x99, p := { clear with d := true, c := true } } []

theorem witness_AdcAddsWithCarry :
    adcForm (.imm 0x99) = some (0x69, .adcImm 0x99) ∧ indexed.cpu.p.d = false ∧ decimal.cpu.p.d = true := ⟨rfl, rfl, rfl⟩

theorem witness_SbcSubtractsWithBorrow :
    sbcForm (.mem (.indx 0xFF)) = some (0xE1, .sbcIndx 0xFF) ∧ indexed.cpu.p.d = false ∧ decimal.cpu.p.d = true :=
  ⟨rfl, rfl, rfl⟩

theorem witness_DecimalArithmeticIsExactOnBcd : decimal.cpu.p.d = true ∧ ValidBcd 0x99 ∧ ValidBcd 0x00 := by
  decide

theorem witness_LogicInstructionsCombineBits :
    andForm (.imm 0xFF) = some (0x29, .andImm 0xFF) ∧ oraForm (.mem (.indx 0)) = some (0x01, .oraIndx 0) ∧
    eorForm (.mem (.absy 0xFFFF)) = some (0x59, .eorAbsy 0xFFFF) := ⟨rfl, rfl, rfl⟩

theorem witness_ComparesSetCZN :
    cmpForm (.mem (.zpx 0xFF)) = some (0xD5, .cmpZpx 0xFF) ∧ cpxForm (.imm 0) = some (0xE0, .cpxImm 0) ∧
    cpyForm (.mem (.abs 0xFFFF)) = some (0xCC, .cpyAbs 0xFFFF) := ⟨rfl, rfl, rfl⟩

theorem witness_BitTestsMemory :
    bitForm (.mem (.zp 0xFF)) = some (0x24, .bitZp 0xFF) ∧ bitForm (.mem (.abs 0)) = some (0x2C, .bitAbs 0) := ⟨rfl, rfl⟩

theorem witness_ShiftsAndCounts :
    aslForm (.absx 0xFFFF) = some (0x1E, .aslAbsx 0xFFFF) ∧ lsrForm (.zp 0) = some (0x46, .lsrZp 0) ∧
    incForm (.zpx 0xFF) = some (0xF6, .incZpx 0xFF) ∧ decForm (.abs 0) = some (0xCE, .decAbs 0) := ⟨rfl, rfl, rfl, rfl⟩

theorem witness_RotatesGoThroughCarry :
    rolForm (.absx 0xFFFF) = some (0x3E, .rolAbsx 0xFFFF) ∧ rorForm (.zpx 0xFF) = some (0x76, .rorZpx 0xFF) := ⟨rfl, rfl⟩

/-- Both values of the condition, at both ends of the reach. -/
theorem witness_BranchesFollowTheirFlag :
    (0x90, Instr.bcc 0x7F, true) ∈ [((0x90 : Byte), Instr.bcc 0x7F, !fresh.p.c), (0xB0, Instr.bcs 0x7F, fresh.p.c)] ∧
    (0x70, Instr.bvs 0x80, false) ∈ [((0x50 : Byte), Instr.bvc 0x80, !fresh.p.v), (0x70, Instr.bvs 0x80, fresh.p.v)] := by
  decide

theorem witness_FlagInstructionsAndNop :
    (0xEA, Instr.nop, clear) ∈ [((0xB8 : Byte), Instr.clv, { clear with v := false }), (0xEA, Instr.nop, clear)] := by
  decide

/-- A state whose next opcode is undefined. -/
def undefinedNext : State := start 0xFFFF [0xFF] fresh []

theorem witness_UndefinedOpcodeJams :
    ReachesFetch undefinedNext ∧ NoBreakpoint undefinedNext ∧
      peek undefinedNext.bus undefinedNext.cpu.pc ∈ undefinedOpcodes := by
  decide

theorem witness_FlagsFrame :
    (∃ t, exec .clc indexed = .next t) ∧ (flagMask (mnemonicOf .clc)).n = false ∧ (flagMask .bit).c = false := by
  exact ⟨⟨_, rfl⟩, rfl, rfl⟩

theorem witness_RegistersFrame :
    (∃ t, exec (.staZp 0) indexed = .next t) ∧ registerMask (.staZp 0) = ⟨false, false, false, false⟩ := ⟨⟨_, rfl⟩, rfl⟩

theorem witness_NonStoringInstructionsLeaveMemory :
    (∃ t, exec (.cmpAbs 0) indexed = .next t) ∧ storesToMemory (.cmpAbs 0) = false ∧ storesToMemory .rorAcc = false :=
  ⟨⟨_, rfl⟩, rfl, rfl⟩

/-- Each clause. -/
theorem witness_StoringInstructionsWriteOnlyTheirBytes :
    (∃ t, exec (.rorAbsx 0xFFFF) indexed = .next t) ∧ rorForm (.absx 0xFFFF) = some (0x7E, .rorAbsx 0xFFFF) ∧
    rorForm ∈ storeForms ∧ (∃ t, exec .pha indexed = .next t) ∧ (∃ t, exec .php indexed = .next t) ∧
    (∃ t, exec (.jsr 0) indexed = .next t) ∧ (∃ t, exec .brk indexed = .next t) :=
  ⟨⟨_, rfl⟩, rfl, by simp [storeForms], ⟨_, rfl⟩, ⟨_, rfl⟩, ⟨_, rfl⟩, ⟨_, rfl⟩⟩

theorem witness_PcMovesPastTheInstruction :
    (∃ t, exec (.ldaAbsx 0xFFFF) indexed = .next t) ∧ (Instr.ldaAbsx 0xFFFF).wellFormed = true ∧
      transfersControl (.ldaAbsx 0xFFFF) = false := ⟨⟨_, rfl⟩, rfl, rfl⟩

theorem witness_DocumentedCostIsTheAccessCount :
    (∃ t, exec (.ldaAbsx 0xFFFF) indexed = .next t) ∧ (Instr.ldaAbsx 0xFFFF).wellFormed = true := ⟨⟨_, rfl⟩, rfl⟩

/-- No breakpoint at `PC`, one that is disabled, and one that is bypassed; and an instruction in ROM. -/
theorem witness_StepRunsDecodedInstruction :
    ReachesFetch indexed ∧ NoBreakpoint indexed ∧ NoBreakpoint (enableBreakpoint 0x0600 false (setBreakpoint 0x0600 .hard indexed)) ∧
    NoBreakpoint { setBreakpoint 0x0600 .hard indexed with bpSkip := some 0x0600 } ∧
    decode [peek indexed.bus 0x0600, peek (indexed.bus.after [.read 0x0600]) 0x0601,
      peek (indexed.bus.after [.read 0x0600, .read 0x0601]) 0x0602] = .ok (.ldaAbsx 0xFFFF, []) ∧
    (setMap [⟨0, 0xFFFF, .rom⟩] indexed).bus.target 0x0600 = .rom ∧
    peek ((setMap [⟨0, 0xFFFF, .rom⟩] indexed).bus.after [.read 0x0600]) 0x0601 = 0xFF :=
  ⟨by decide, by decide, by decide, by decide, rfl, rfl, rfl⟩

theorem witness_JammedStepDoesNothing : jammed.cpu.jammed = true := by
  decide +kernel

/-- A pending NMI, an arriving NMI, an IRQ. -/
theorem witness_InterruptsAreTaken :
    irqState.cpu.jammed = false ∧ ¬ NmiDue irqState ∧ irqState.irqLine = true ∧ irqState.cpu.p.i = false ∧
    nmiState.cpu.jammed = false ∧ NmiDue nmiState ∧ NmiDue { irqState with nmiPending := true } := by
  decide

theorem witness_InterruptServiceIsOneStep :
    nmiState.cpu.jammed = false ∧ step nmiState = .next (after nmiState) ∧ nmiState.nmiLine = true ∧
      engineState irqState = .awaitingInterruptService := ⟨rfl, rfl, rfl, rfl⟩

/-- A soft and a hard breakpoint. -/
theorem witness_BreakpointStopsBeforeTheInstruction :
    ReachesFetch (setBreakpoint 0x0600 .soft indexed) ∧
    (setBreakpoint 0x0600 .soft indexed).bpSkip ≠ some 0x0600 ∧
    breakpointAt (setBreakpoint 0x0600 .soft indexed).bps 0x0600 = some ⟨0x0600, .soft, true⟩ ∧
    breakpointAt (setBreakpoint 0x0600 .hard indexed).bps 0x0600 = some ⟨0x0600, .hard, true⟩ := by
  decide

theorem witness_ResumePassesTheBreakpoint :
    step (setBreakpoint 0x0605 .hard (start 0x0605 [0xEE, 0x00, 0x02] fresh [(0x0200, 1)])) = .next trapped ∧
    trapped.outcome = some (.trapped ⟨0x0605, .breakpoint, { fresh with pc := 0x0605 }⟩) ∧ ReachesFetch trapped :=
  ⟨rfl, rfl, by decide +kernel⟩

theorem witness_OutcomeOfAStep :
    step jammed = .next (after jammed) ∧ jammed.cpu.jammed = true ∧ step indexed = .next (after indexed) ∧
      indexed.cpu.jammed = false := ⟨rfl, rfl, rfl, rfl⟩

theorem witness_NoTableEntryNoTrap :
    indexed.bps = [] ∧ indexed.wps = [] ∧ step indexed = .next (after indexed) := ⟨rfl, rfl, rfl⟩

theorem witness_WatchpointsAlterNothing :
    step indexed = .next (after indexed) ∧ step { indexed with wps := [⟨0xFF00, .any, true⟩] } =
      .next (after { indexed with wps := [⟨0xFF00, .any, true⟩] }) := ⟨rfl, rfl⟩

theorem witness_CyclesAndBreakFlagInfluenceNothing : step indexed = .next (after indexed) := rfl

theorem witness_CyclesCountAccesses : step nmiState = .next (after nmiState) := rfl

theorem witness_StepKeepsInvariant : Inv nmiState ∧ step nmiState = .next (after nmiState) := ⟨by decide, rfl⟩

theorem witness_ResetHasInvariant :
    jammed.bus.mem.wf ∧ Keyed breakKey jammed.bps ∧ Keyed watchKey jammed.wps ∧
      Keyed BitVec.toNat (singleStep jammed).stepArmed ∧ Inv State.reset := by
  decide +kernel

theorem witness_HostCallsKeepInvariant :
    Inv nmiState ∧
      hostCall (.setBreakpoint 0 .hard) nmiState = .next (.done, setBreakpoint 0 .hard nmiState) :=
  ⟨by decide, rfl⟩

/-- Each clause: the empty map, and RAM, ROM and a device at the borders of their regions; a listed and an unlisted
byte. -/
theorem witness_BusServesRamRomAndDevices :
    Bus.reference.regions = [] ∧
    Bus.target ⟨[(0, 1), (0xFFFF, 2)], mixedMap, []⟩ 0xCFFF = .ram ∧
    Bus.target ⟨[(0, 1), (0xFFFF, 2)], mixedMap, []⟩ 0xD000 = .device ∧
    Bus.target ⟨[(0, 1), (0xFFFF, 2)], mixedMap, []⟩ 0xDFFF = .device ∧
    Bus.target ⟨[(0, 1), (0xFFFF, 2)], mixedMap, []⟩ 0xE000 = .rom ∧
    Bus.target ⟨[(0, 1), (0xFFFF, 2)], mixedMap, []⟩ 0xFFFF = .rom ∧
    Memory.wf [(0, 1), (0xFFFF, 2)] ∧ Memory.read [(0, 1), (0xFFFF, 2)] 0xFFFF = 2 ∧
      Memory.read [(0, 1), (0xFFFF, 2)] 1 = 0 := by
  decide

/-- RAM under the stack on a bus with a map. -/
theorem witness_RtsUndoesJsr :
    (setMap mixedMap indexed).bus.target (stackBelow indexed 0) = .ram ∧
      (setMap mixedMap indexed).bus.target (stackBelow indexed 1) = .ram := ⟨rfl, rfl⟩

theorem witness_RtiUndoesExceptionEntry : ∀ n < 3, (setMap mixedMap indexed).bus.target (stackBelow indexed n) = .ram := by
  decide

/-- The record named and another one, for both tables, a record that is not there, and records of what was armed. -/
theorem witness_TableCommandsWriteOneRecord :
    breakpointAt (setBreakpoint 1 .hard (setBreakpoint 0 .soft indexed)).bps 0 = some ⟨0, .soft, true⟩ ∧
    watchpointAt (clearWatchpoint 1 .read (setWatchpoint 1 .any (setWatchpoint 1 .read indexed))).wps 1 .any =
      some ⟨1, .any, true⟩ ∧
    breakpointAt (setBreakpoint 1 .hard indexed).bps 0xFFFF = none ∧
    watchpointAt (setWatchpoint 1 .read indexed).wps 1 .any = none ∧
    breakpointAt (enableBreakpoint 1 false (setBreakpoint 1 .hard indexed)).bps 1 = some ⟨1, .hard, false⟩ ∧
    watchpointAt (enableWatchpoint 1 .read false (setWatchpoint 1 .read indexed)).wps 1 .read =
      some ⟨1, .read, false⟩ ∧
    (singleStep indexed).stepArmed = [0x0603] := by
  decide

/-- Canonical tables in which each clause has a record it answers and one it does not. -/
theorem witness_DebuggerLookups :
    Keyed breakKey [⟨0, .soft, true⟩, ⟨1, .hard, false⟩] ∧
    Keyed watchKey [⟨0, .read, false⟩, ⟨0, .any, true⟩, ⟨0xFFFF, .write, true⟩] ∧
    checkFetch [⟨0, .soft, true⟩, ⟨1, .hard, false⟩] 0 = (some ⟨0, .soft, true⟩, [⟨1, .hard, false⟩]) ∧
    checkAccess [⟨0, .read, false⟩, ⟨0, .any, true⟩, ⟨0xFFFF, .write, true⟩] 0 .read = some ⟨0, .any, true⟩ ∧
    checkAccess [⟨0, .read, false⟩, ⟨0, .any, true⟩, ⟨0xFFFF, .write, true⟩] 0xFFFF .read = none := by
  decide

theorem witness_OnlyUndefinedOpcodesJam :
    undefinedNext.cpu.jammed = false ∧ step undefinedNext = .next (after undefinedNext) ∧
      (after undefinedNext).cpu.jammed = true := ⟨rfl, rfl, by decide +kernel⟩

theorem witness_JamIsTerminal :
    jammed.cpu.jammed = true ∧ (∀ c ∈ [HostCall.setLines true true, .step], c.endsJam = false) ∧
      session [.setLines true true, .step] jammed = .next (after (setLines true true jammed)) :=
  ⟨rfl, by decide, rfl⟩

theorem witness_HostCommandsLeaveTheProcessor :
    HostCall.captureSnapshot ≠ .step ∧ HostCall.captureSnapshot.endsJam = false ∧
      hostCall .captureSnapshot indexed = .next (.snapshot (captureSnapshot indexed), indexed) ∧
      (∀ l, HostCall.captureSnapshot ≠ .setBytes l) ∧ (∀ r, HostCall.captureSnapshot ≠ .setMap r) ∧
      (∀ n, HostCall.captureSnapshot ≠ .deviceChange n) ∧ (∀ i n, HostCall.captureSnapshot ≠ .setLines i n) :=
  ⟨by decide, rfl, rfl, by simp, by simp, by simp, by simp⟩

/-- A tuple with the invariants, and one with `P.B = 0`. -/
theorem witness_SnapshotsAndConfigure :
    (captureSnapshot indexed).wf ∧ ¬ (captureSnapshot (indexed.withBreakFlag false)).wf ∧ Inv indexed := by
  decide

theorem witness_SingleStepStopsAfterTheInstruction :
    ReachesFetch indexed ∧ NoBreakpoint indexed ∧ transfersControl (instrAt indexed.bus indexed.cpu.pc) = false ∧
      step (singleStep indexed) = .next (after (singleStep indexed)) ∧ ReachesFetch (after (singleStep indexed)) :=
  ⟨by decide, by decide, rfl, rfl, by decide +kernel⟩

/-- A state whose next step meets the breakpoint that `singleStep()` armed. -/
def armed : State := after (singleStep (start 0x0600 [0xA9, 0x42] fresh []))

/-- A breakpoint trap, single-step completion, a watchpoint trap, a jam, a jammed state, an `Ok`. -/
theorem witness_TrapsAndJamsAreNotified :
    notification (setBreakpoint 0x0605 .hard (start 0x0605 [0xEE, 0x00, 0x02] fresh [(0x0200, 1)])) trapped =
      some ⟨0x0605, .breakpoint, { fresh with pc := 0x0605 }⟩ ∧
    step armed = .next (after armed) ∧
    notification armed (after armed) = some ⟨0x0602, .singleStep, { fresh with a := 0x42, pc := 0x0602 }⟩ ∧
    (notification indexed (after (setWatchpoint 0x0601 .read indexed))).map (·.kind) = some .watchpoint ∧
    step undefinedNext = .next (after undefinedNext) ∧ undefinedNext.cpu.jammed = false ∧
    (after undefinedNext).cpu.jammed = true ∧ (after trapped).outcome = some .ok :=
  ⟨by decide +kernel, rfl, by decide +kernel, by decide +kernel, rfl, rfl, by decide +kernel, by decide +kernel⟩

/-- A run of one step that consumes its budget, one that jams, one with just enough fuel, and an `Ok` step. -/
theorem witness_RunStopsAtBudgetOrTrap :
    0 ≤ indexed.cycles ∧ indexed.cycles - 0 < 5 ∧
    runLoop (some 5) 0 1 indexed = .next (.completed, after indexed) ∧
    runLoop (some 5) 0 1 undefinedNext = .next (.stopped .jammed, after undefinedNext) ∧
    5 - (indexed.cycles - 0) ≤ 5 ∧ step indexed = .next (after indexed) ∧ (after indexed).outcome = some .ok :=
  ⟨by decide, by decide, rfl, rfl, by decide, rfl, rfl⟩

end Sys2Proof.Tests
end

/-! PROOFS (10_state.md). The four kinds of a step, in the terms later proofs use. -/

namespace Sys2Proof.Machine

variable {s t : State}

/-- A step of this state takes an interrupt: the NMI, or an unmasked IRQ (60_exceptions.md R312, R315). -/
abbrev InterruptDue (s : State) : Prop := NmiDue s ∨ (s.irqLine && !s.cpu.p.i) = true

/-- The vector of the interrupt that is taken: NMI before IRQ (60_exceptions.md R313). -/
def dueVector (s : State) : Word := if NmiDue s then nmiVector else irqVector

theorem step_interrupt (hj : s.cpu.jammed = false) (h : InterruptDue s) :
    step s = .next (finish (s.atInterrupt.afterInterrupt (dueVector s))) := by
  unfold dueVector
  split
  · next hn => rw [step_nmi hj hn, interruptSequence_after]
  · next hn => rw [step_irq hj hn (h.resolve_left hn), interruptSequence_after]

/-- A step that runs the instruction at `PC`, in the terms of `exec_uniform`. -/
theorem step_instruction {L F} (hr : ReachesFetch s) (hn : NoBreakpoint s) (hu : Uniform (instrAt s.bus s.cpu.pc) L F) :
    step s = .next (finish ((s.atFetch.perform (.read s.cpu.pc :: L s.fetched.view)).mapCpu fun c =>
      F s.fetched.view { c with pc := c.pc + 1 })) :=
  (step_run hr hn).trans (runInstruction_eq hu rfl)

/-- `step_cases` with the two interrupts as one case. -/
theorem step_kinds (s : State) :
    s.cpu.jammed = true ∨
    (s.cpu.jammed = false ∧ InterruptDue s) ∨
    (ReachesFetch s ∧ s.bpSkip ≠ some s.cpu.pc ∧ ∃ b, breakpointAt s.bps s.cpu.pc = some b ∧ b.enabled = true) ∨
    (ReachesFetch s ∧ NoBreakpoint s) := by
  rcases step_cases s with h | ⟨hj, h⟩ | ⟨hj, -, h⟩ | h | h
  · exact .inl h
  · exact .inr (.inl ⟨hj, .inl h⟩)
  · exact .inr (.inl ⟨hj, .inr h⟩)
  · exact .inr (.inr (.inl h))
  · exact .inr (.inr (.inr h))

/-- What answers two next states answers one. -/
theorem next_inj {σ : Type} {x : Host.Outcome σ Fault Refusal} {t u : σ} (h : x = .next t) (hu : x = .next u) : t = u :=
  Host.Outcome.next.inj (h.symm.trans hu)

theorem isJam_eq_true {i : Instr} : isJam i = true ↔ ∃ op, i = .jam op := by
  constructor
  · intro h
    unfold isJam at h
    split at h
    · exact ⟨_, rfl⟩
    · cases h
  · rintro ⟨op, rfl⟩
    rfl

theorem isJam_eq_false {i : Instr} : isJam i = false ↔ ∀ op, i ≠ .jam op := by
  rw [← Bool.not_eq_true, isJam_eq_true, not_exists]

section Ran

variable {u : State} {l : List Request} {f : ProcessorState → ProcessorState}

/-! What a step has before its first access, as far as no step changes it there. -/

theorem Ran.cpu (h : Ran s u l f) : u.cpu = s.cpu := by rcases h.start with rfl | rfl <;> rfl

theorem Ran.bus (h : Ran s u l f) : u.bus = s.bus := by rcases h.start with rfl | rfl <;> rfl

theorem Ran.bps (h : Ran s u l f) : u.bps = s.bps := by rcases h.start with rfl | rfl <;> rfl

theorem Ran.wps (h : Ran s u l f) : u.wps = s.wps := by rcases h.start with rfl | rfl <;> rfl

theorem Ran.stepArmed (h : Ran s u l f) : u.stepArmed = s.stepArmed := by rcases h.start with rfl | rfl <;> rfl

end Ran

end Sys2Proof.Machine

/-! PROOFS (10_state.md R39). The invariant: every step and every call from outside keeps it, and reset gives it. -/

namespace Sys2Proof.Machine

variable {s t : State}

theorem inv_of_ran {u : State} {l : List Request} {f : ProcessorState → ProcessorState} (h : Ran s u l f) (hi : Inv s) :
    Inv (finish ((u.perform l).mapCpu f)) := by
  obtain ⟨hm, hb, hw, ha, hB⟩ := hi
  refine ⟨after_wf (h.bus ▸ hm) l, h.bps ▸ hb, h.wps ▸ hw, h.stepArmed ▸ ha, ?_⟩
  have hc := h.breakFlag
  rw [finish_cpu, mapCpu_cpu, perform_cpu, h.cpu, hc, hB]

theorem inv_setBreakpoint (h : Inv s) (a : Word) (k : BreakKind) : Inv (setBreakpoint a k s) := by
  obtain ⟨hm, hb, hw, ha, hB⟩ := h
  exact ⟨hm, putKey_keyed hb _, hw, removeKey_keyed ha _, hB⟩

theorem inv_clearBreakpoint (h : Inv s) (a : Word) : Inv (clearBreakpoint a s) := by
  obtain ⟨hm, hb, hw, ha, hB⟩ := h
  exact ⟨hm, removeKey_keyed hb _, hw, removeKey_keyed ha _, hB⟩

theorem inv_setWatchpoint (h : Inv s) (a : Word) (k : WatchAccess) : Inv (setWatchpoint a k s) := by
  obtain ⟨hm, hb, hw, ha, hB⟩ := h
  exact ⟨hm, hb, putKey_keyed hw _, ha, hB⟩

theorem inv_clearWatchpoint (h : Inv s) (a : Word) (k : WatchAccess) : Inv (clearWatchpoint a k s) := by
  obtain ⟨hm, hb, hw, ha, hB⟩ := h
  exact ⟨hm, hb, removeKey_keyed hw _, ha, hB⟩

theorem inv_enableBreakpoint (h : Inv s) (a : Word) (e : Bool) : Inv (enableBreakpoint a e s) := by
  obtain ⟨hm, hb, hw, ha, hB⟩ := h
  exact ⟨hm, map_keyed (fun x => by simp only [breakKey]; split <;> rfl) hb, hw, ha, hB⟩

theorem inv_enableWatchpoint (h : Inv s) (a : Word) (k : WatchAccess) (e : Bool) : Inv (enableWatchpoint a k e s) := by
  obtain ⟨hm, hb, hw, ha, hB⟩ := h
  exact ⟨hm, hb, map_keyed (fun x => by simp only [watchKey]; split <;> rfl) hw, ha, hB⟩

theorem inv_singleStep (h : Inv s) : Inv (singleStep s) := by
  obtain ⟨hm, hb, hw, ha, hB⟩ := h
  exact ⟨hm, putKey_keyed hb _, hw, putKey_keyed ha _, hB⟩

theorem inv_restoreSnapshot (h : Inv s) {x : Snapshot} (hx : x.wf) : Inv (restoreSnapshot x s) := by
  obtain ⟨hm, -⟩ := h
  obtain ⟨hB, hb, hw⟩ := hx
  exact ⟨hm, hb, hw, List.Pairwise.nil, hB⟩

theorem writes_wf (l : List (Word × Byte)) {m : Memory} (h : m.wf) : (l.foldl (fun m c => m.write c.1 c.2) m).wf := by
  induction l generalizing m with
  | nil => exact h
  | cons c l ih => exact ih (write_wf h c.1 c.2)

theorem inv_setBytes (h : Inv s) (l : List (Word × Byte)) : Inv (setBytes l s) := by
  obtain ⟨hm, hRest⟩ := h
  exact ⟨writes_wf l hm, hRest⟩

/-- `configure` changes nothing (70_reset_and_hazards.md R354). -/
theorem configure_state (o v : String) (s : State) : (configure o v s).2 = s := by
  unfold configure
  split <;> rfl

theorem inv_resetProcessor (hm : s.bus.mem.wf) (hb : Keyed breakKey s.bps) (hw : Keyed watchKey s.wps)
    (ha : Keyed BitVec.toNat s.stepArmed) : Inv (resetProcessor s) := by
  refine ⟨?_, hb, hw, ha, rfl⟩
  simpa only [resetProcessor, busRead_mem] using hm

theorem inv_reset : Inv State.reset :=
  ⟨⟨List.Pairwise.nil, by simp [State.reset, Bus.reference]⟩, List.Pairwise.nil, List.Pairwise.nil,
    List.Pairwise.nil, rfl⟩

/-- Settles O46, by the three shapes of a step: a jammed step and a breakpoint trap make no access, and the latter at
most removes a record; any other step serves its accesses and keeps `P.B`. -/
theorem stepKeepsInvariant : Obligations.StepKeepsInvariant := by
  unfold Obligations.StepKeepsInvariant
  intro s t hi h
  rcases step_form s with ⟨-, e⟩ | ⟨-, -, bps, hbps, e⟩ | ⟨-, u, l, f, hr, e⟩
  · rw [next_inj h e]
    exact hi
  · rw [next_inj h e]
    obtain ⟨hm, hb, hw, ha, hB⟩ := hi
    have hk : Keyed breakKey bps := by
      rcases hbps with rfl | rfl
      · exact hb
      · exact removeKey_keyed hb _
    exact ⟨hm, hk, hw, ha, hB⟩
  · rw [next_inj h e]
    exact inv_of_ran hr hi

/-- Settles O47: the two vector reads of `reset()` leave the bytes behind the bus. -/
theorem resetHasInvariant : Obligations.ResetHasInvariant := by
  unfold Obligations.ResetHasInvariant
  exact ⟨inv_reset, fun _ hm hb hw ha => inv_resetProcessor hm hb hw ha⟩

/-- Settles O48, call by call: `step` by O46, and every other call writes canonical tables, bytes or a checked tuple. -/
theorem hostCallsKeepInvariant : Obligations.HostCallsKeepInvariant := by
  unfold Obligations.HostCallsKeepInvariant
  intro c s t r hi h
  have state_eq {x : Reply × State} (e : hostCall c s = .next x) : t = x.2 := congrArg Prod.snd (next_inj h e)
  cases c with
  | step =>
    cases hs : step s with
    | next u =>
      rw [state_eq (x := (.stepped u.outcome, u)) (by simp only [hostCall, hs])]
      exact stepKeepsInvariant s u hi hs
    | fault f => simp [hostCall, hs] at h
    | refused x => simp [hostCall, hs] at h
  | reset =>
    rw [state_eq rfl]
    obtain ⟨hm, hb, hw, ha, -⟩ := hi
    exact inv_resetProcessor hm hb hw ha
  | setBreakpoint a k => exact state_eq rfl ▸ inv_setBreakpoint hi a k
  | clearBreakpoint a => exact state_eq rfl ▸ inv_clearBreakpoint hi a
  | setWatchpoint a k => exact state_eq rfl ▸ inv_setWatchpoint hi a k
  | clearWatchpoint a k => exact state_eq rfl ▸ inv_clearWatchpoint hi a k
  | enableBreakpoint a e => exact state_eq rfl ▸ inv_enableBreakpoint hi a e
  | enableWatchpoint a k e => exact state_eq rfl ▸ inv_enableWatchpoint hi a k e
  | singleStep => exact state_eq rfl ▸ inv_singleStep hi
  | captureSnapshot => exact state_eq rfl ▸ hi
  | loadSnapshot x =>
    by_cases hx : x.wf
    · exact state_eq (if_pos hx) ▸ inv_restoreSnapshot hi hx
    · cases h.symm.trans (if_neg hx)
  | configure o v =>
    rw [state_eq rfl, configure_state]
    exact hi
  | setLines i n => exact state_eq rfl ▸ hi
  | setBytes l => exact state_eq rfl ▸ inv_setBytes hi l
  | setMap m => exact state_eq rfl ▸ hi
  | deviceChange n => exact state_eq rfl ▸ hi

end Sys2Proof.Machine

/-! PROOFS (10_state.md R21 to R31). The frame of ProcessorState: which flags and registers an instruction leaves, and
how far it moves `PC`. -/

namespace Sys2Proof.Machine

variable {s t : State} {i : Instr}

/-- The flags that a line of the flag table does not mark are kept (10_state.md R31). -/
structure KeepsFlags (k : FlagMask) (p q : Flags) : Prop where
  n : k.n = false → q.n = p.n
  v : k.v = false → q.v = p.v
  d : k.d = false → q.d = p.d
  i : k.i = false → q.i = p.i
  z : k.z = false → q.z = p.z
  c : k.c = false → q.c = p.c

/-- The registers that are no destination are kept (10_state.md R21 to R23). -/
structure KeepsRegisters (k : RegisterMask) (c d : ProcessorState) : Prop where
  a : k.a = false → d.a = c.a
  x : k.x = false → d.x = c.x
  y : k.y = false → d.y = c.y
  sp : k.sp = false → d.sp = c.sp

/-- What an instruction leaves of ProcessorState `c`, from which it makes `d`: the flags and registers it does not
write, and, if it is no control transfer, `PC` but for its operand bytes. -/
structure CpuFrame (i : Instr) (c d : ProcessorState) : Prop where
  flags : KeepsFlags (flagMask (mnemonicOf i)) c.p d.p
  registers : KeepsRegisters (registerMask i) c d
  pc : transfersControl i = false → d.pc = c.pc + BitVec.ofNat 16 ((encode i).length - 1)

/-! The flag computations, each against the line of R31 it belongs to. -/

section Flags

variable (p : Flags)

theorem keepsFlags_refl (k : FlagMask) : KeepsFlags k p p :=
  ⟨fun _ => rfl, fun _ => rfl, fun _ => rfl, fun _ => rfl, fun _ => rfl, fun _ => rfl⟩

theorem keepsFlags_setZN (v : Byte) : KeepsFlags ⟨true, false, false, false, true, false⟩ p (setZN v p) :=
  ⟨nofun, fun _ => rfl, fun _ => rfl, fun _ => rfl, nofun, fun _ => rfl⟩

theorem keepsFlags_adcResult (a m : Byte) :
    KeepsFlags ⟨true, true, false, false, true, true⟩ p (adcResult a m p).2 := by
  unfold adcResult
  split <;> exact ⟨nofun, nofun, fun _ => rfl, fun _ => rfl, nofun, nofun⟩

theorem keepsFlags_sbcResult (a m : Byte) :
    KeepsFlags ⟨true, true, false, false, true, true⟩ p (sbcResult a m p).2 :=
  ⟨nofun, nofun, fun _ => rfl, fun _ => rfl, nofun, nofun⟩

/-- The lines of the compares and the shifts: `N`, `Z` and `C` are written. -/
theorem keepsFlags_nzc (n z c : Bool) :
    KeepsFlags ⟨true, false, false, false, true, true⟩ p { p with n := n, z := z, c := c } :=
  ⟨nofun, fun _ => rfl, fun _ => rfl, fun _ => rfl, nofun, nofun⟩

theorem keepsFlags_bitFlags (a m : Byte) :
    KeepsFlags ⟨true, true, false, false, true, false⟩ p (bitFlags a m p) :=
  ⟨nofun, nofun, fun _ => rfl, fun _ => rfl, nofun, fun _ => rfl⟩

theorem keepsFlags_setC (c : Bool) : KeepsFlags ⟨false, false, false, false, false, true⟩ p { p with c := c } :=
  ⟨fun _ => rfl, fun _ => rfl, fun _ => rfl, fun _ => rfl, fun _ => rfl, nofun⟩

theorem keepsFlags_setD (d : Bool) : KeepsFlags ⟨false, false, true, false, false, false⟩ p { p with d := d } :=
  ⟨fun _ => rfl, fun _ => rfl, nofun, fun _ => rfl, fun _ => rfl, fun _ => rfl⟩

theorem keepsFlags_setI (i : Bool) : KeepsFlags ⟨false, false, false, true, false, false⟩ p { p with i := i } :=
  ⟨fun _ => rfl, fun _ => rfl, fun _ => rfl, nofun, fun _ => rfl, fun _ => rfl⟩

theorem keepsFlags_setV (v : Bool) : KeepsFlags ⟨false, true, false, false, false, false⟩ p { p with v := v } :=
  ⟨fun _ => rfl, nofun, fun _ => rfl, fun _ => rfl, fun _ => rfl, fun _ => rfl⟩

/-- The line of `PLP` and `RTI`, which keeps nothing. -/
theorem keepsFlags_all (q : Flags) : KeepsFlags ⟨true, true, true, true, true, true⟩ p q :=
  ⟨nofun, nofun, nofun, nofun, nofun, nofun⟩

end Flags

/-! The changes of ProcessorState, by the registers they write. `P`, `PC` and `jammed` are no registers of the mask. -/

section Registers

variable (c : ProcessorState) (v w : Byte) (p : Flags) (pc : Word) (j : Bool)

theorem keepsRegisters_none (k : RegisterMask) : KeepsRegisters k c { c with p := p, pc := pc, jammed := j } :=
  ⟨fun _ => rfl, fun _ => rfl, fun _ => rfl, fun _ => rfl⟩

theorem keepsRegisters_a : KeepsRegisters ⟨true, false, false, false⟩ c { c with a := v, p := p, pc := pc } :=
  ⟨nofun, fun _ => rfl, fun _ => rfl, fun _ => rfl⟩

theorem keepsRegisters_x : KeepsRegisters ⟨false, true, false, false⟩ c { c with x := v, p := p, pc := pc } :=
  ⟨fun _ => rfl, nofun, fun _ => rfl, fun _ => rfl⟩

theorem keepsRegisters_y : KeepsRegisters ⟨false, false, true, false⟩ c { c with y := v, p := p, pc := pc } :=
  ⟨fun _ => rfl, fun _ => rfl, nofun, fun _ => rfl⟩

theorem keepsRegisters_sp : KeepsRegisters ⟨false, false, false, true⟩ c { c with sp := v, p := p, pc := pc } :=
  ⟨fun _ => rfl, fun _ => rfl, fun _ => rfl, nofun⟩

theorem keepsRegisters_a_sp :
    KeepsRegisters ⟨true, false, false, true⟩ c { c with a := v, sp := w, p := p, pc := pc } :=
  ⟨nofun, fun _ => rfl, fun _ => rfl, nofun⟩

end Registers

/-- The frame of an instruction, read off the equation of its operation. -/
theorem cpuFrame_of_eq {u : State} {l : List Request} {f : ProcessorState → ProcessorState} (h : exec i s = .next t)
    (hx : exec i s = .next u) (hu : u = (s.perform l).mapCpu f) (hf : CpuFrame i s.cpu (f s.cpu)) :
    CpuFrame i s.cpu t.cpu := by
  rw [next_inj h hx, hu]
  exact hf

/-- `PC` of an instruction without operand bytes. -/
theorem pc_add_zero (w : Word) : w = w + BitVec.ofNat 16 0 := (BitVec.add_zero w).symm

theorem exec_cpuFrame (h : exec i s = .next t) : CpuFrame i s.cpu t.cpu := by
  cases i
  -- Loads, arithmetic and logic into a register.
  case ldaImm | ldaZp | ldaZpx | ldaAbs | ldaAbsx | ldaAbsy | ldaIndx | ldaIndy =>
    exact cpuFrame_of_eq h rfl (opLda_eq s _) ⟨keepsFlags_setZN _ _, keepsRegisters_a .., fun _ => rfl⟩
  case ldxImm | ldxZp | ldxZpy | ldxAbs | ldxAbsy =>
    exact cpuFrame_of_eq h rfl (opLdx_eq s _) ⟨keepsFlags_setZN _ _, keepsRegisters_x .., fun _ => rfl⟩
  case ldyImm | ldyZp | ldyZpx | ldyAbs | ldyAbsx =>
    exact cpuFrame_of_eq h rfl (opLdy_eq s _) ⟨keepsFlags_setZN _ _, keepsRegisters_y .., fun _ => rfl⟩
  case adcImm | adcZp | adcZpx | adcAbs | adcAbsx | adcAbsy | adcIndx | adcIndy =>
    exact cpuFrame_of_eq h rfl (opAdc_eq s _) ⟨keepsFlags_adcResult .., keepsRegisters_a .., fun _ => rfl⟩
  case sbcImm | sbcZp | sbcZpx | sbcAbs | sbcAbsx | sbcAbsy | sbcIndx | sbcIndy =>
    exact cpuFrame_of_eq h rfl (opSbc_eq s _) ⟨keepsFlags_sbcResult .., keepsRegisters_a .., fun _ => rfl⟩
  case andImm | andZp | andZpx | andAbs | andAbsx | andAbsy | andIndx | andIndy =>
    exact cpuFrame_of_eq h rfl (opAnd_eq s _) ⟨keepsFlags_setZN .., keepsRegisters_a .., fun _ => rfl⟩
  case oraImm | oraZp | oraZpx | oraAbs | oraAbsx | oraAbsy | oraIndx | oraIndy =>
    exact cpuFrame_of_eq h rfl (opOra_eq s _) ⟨keepsFlags_setZN .., keepsRegisters_a .., fun _ => rfl⟩
  case eorImm | eorZp | eorZpx | eorAbs | eorAbsx | eorAbsy | eorIndx | eorIndy =>
    exact cpuFrame_of_eq h rfl (opEor_eq s _) ⟨keepsFlags_setZN .., keepsRegisters_a .., fun _ => rfl⟩
  -- Compares and bit tests.
  case cmpImm | cmpZp | cmpZpx | cmpAbs | cmpAbsx | cmpAbsy | cmpIndx | cmpIndy =>
    exact cpuFrame_of_eq h rfl (opCmp_eq s _) ⟨keepsFlags_nzc .., keepsRegisters_none .., fun _ => rfl⟩
  case cpxImm | cpxZp | cpxAbs =>
    exact cpuFrame_of_eq h rfl (opCpx_eq s _) ⟨keepsFlags_nzc .., keepsRegisters_none .., fun _ => rfl⟩
  case cpyImm | cpyZp | cpyAbs =>
    exact cpuFrame_of_eq h rfl (opCpy_eq s _) ⟨keepsFlags_nzc .., keepsRegisters_none .., fun _ => rfl⟩
  case bitZp | bitAbs =>
    exact cpuFrame_of_eq h rfl (opBit_eq s _) ⟨keepsFlags_bitFlags .., keepsRegisters_none .., fun _ => rfl⟩
  -- Stores.
  case staZp | staZpx | staAbs | staAbsx | staAbsy | staIndx | staIndy =>
    exact cpuFrame_of_eq h rfl (opSta_eq s _) ⟨keepsFlags_refl .., keepsRegisters_none .., fun _ => rfl⟩
  case stxZp | stxZpy | stxAbs =>
    exact cpuFrame_of_eq h rfl (opStx_eq s _) ⟨keepsFlags_refl .., keepsRegisters_none .., fun _ => rfl⟩
  case styZp | styZpx | styAbs =>
    exact cpuFrame_of_eq h rfl (opSty_eq s _) ⟨keepsFlags_refl .., keepsRegisters_none .., fun _ => rfl⟩
  -- Shifts, rotates and counts in memory.
  case aslZp | aslZpx | aslAbs | aslAbsx | lsrZp | lsrZpx | lsrAbs | lsrAbsx | rolZp | rolZpx | rolAbs | rolAbsx | rorZp
      | rorZpx | rorAbs | rorAbsx =>
    exact cpuFrame_of_eq h rfl (modifyOperand_eq s _ _) ⟨keepsFlags_nzc .., keepsRegisters_none .., fun _ => rfl⟩
  case incZp | incZpx | incAbs | incAbsx | decZp | decZpx | decAbs | decAbsx =>
    exact cpuFrame_of_eq h rfl (modifyOperand_eq s _ _) ⟨keepsFlags_setZN .., keepsRegisters_none .., fun _ => rfl⟩
  -- One byte: registers and flags.
  case aslAcc | lsrAcc | rolAcc | rorAcc =>
    exact cpuFrame_of_eq h rfl (modifyAccumulator_eq s _)
      ⟨keepsFlags_nzc .., keepsRegisters_a .., fun _ => pc_add_zero _⟩
  case txa | tya =>
    exact cpuFrame_of_eq h rfl (implied_eq s _) ⟨keepsFlags_setZN .., keepsRegisters_a .., fun _ => pc_add_zero _⟩
  case tax | tsx | inx | dex =>
    exact cpuFrame_of_eq h rfl (implied_eq s _) ⟨keepsFlags_setZN .., keepsRegisters_x .., fun _ => pc_add_zero _⟩
  case tay | iny | dey =>
    exact cpuFrame_of_eq h rfl (implied_eq s _) ⟨keepsFlags_setZN .., keepsRegisters_y .., fun _ => pc_add_zero _⟩
  case txs =>
    exact cpuFrame_of_eq h rfl (implied_eq s _) ⟨keepsFlags_refl .., keepsRegisters_sp .., fun _ => pc_add_zero _⟩
  case clc | sec =>
    exact cpuFrame_of_eq h rfl (implied_eq s _) ⟨keepsFlags_setC .., keepsRegisters_none .., fun _ => pc_add_zero _⟩
  case cli | sei =>
    exact cpuFrame_of_eq h rfl (implied_eq s _) ⟨keepsFlags_setI .., keepsRegisters_none .., fun _ => pc_add_zero _⟩
  case cld | sed =>
    exact cpuFrame_of_eq h rfl (implied_eq s _) ⟨keepsFlags_setD .., keepsRegisters_none .., fun _ => pc_add_zero _⟩
  case clv =>
    exact cpuFrame_of_eq h rfl (implied_eq s _) ⟨keepsFlags_setV .., keepsRegisters_none .., fun _ => pc_add_zero _⟩
  case nop =>
    exact cpuFrame_of_eq h rfl (implied_eq s id) ⟨keepsFlags_refl .., keepsRegisters_none .., fun _ => pc_add_zero _⟩
  -- The stack.
  case pha | php =>
    exact cpuFrame_of_eq h rfl (push_dummyFetch_eq s _)
      ⟨keepsFlags_refl .., keepsRegisters_sp .., fun _ => pc_add_zero _⟩
  case pla =>
    exact cpuFrame_of_eq h rfl (opPla_eq s) ⟨keepsFlags_setZN .., keepsRegisters_a_sp .., fun _ => pc_add_zero _⟩
  case plp =>
    exact cpuFrame_of_eq h rfl (opPlp_eq s) ⟨keepsFlags_all .., keepsRegisters_sp .., fun _ => pc_add_zero _⟩
  -- Control transfers and the jam: `PC` is their own.
  case bcc | bcs | beq | bne | bmi | bpl | bvc | bvs =>
    exact cpuFrame_of_eq h rfl (branch_eq s _ _) ⟨keepsFlags_refl .., keepsRegisters_none .., nofun⟩
  case jmpAbs w =>
    exact cpuFrame_of_eq h rfl (opJmpAbs_eq s w) ⟨keepsFlags_refl .., keepsRegisters_none .., nofun⟩
  case jmpInd w =>
    exact cpuFrame_of_eq h rfl (opJmpInd_eq s w) ⟨keepsFlags_refl .., keepsRegisters_none .., nofun⟩
  case jsr w =>
    exact cpuFrame_of_eq h rfl (opJsr_eq s w) ⟨keepsFlags_refl .., keepsRegisters_sp .., nofun⟩
  case rts =>
    exact cpuFrame_of_eq h rfl (opRts_eq s) ⟨keepsFlags_refl .., keepsRegisters_sp .., nofun⟩
  case brk =>
    exact cpuFrame_of_eq h rfl (opBrk_eq s) ⟨keepsFlags_setI .., keepsRegisters_sp .., nofun⟩
  case rti =>
    exact cpuFrame_of_eq h rfl (opRti_eq s) ⟨keepsFlags_all .., keepsRegisters_sp .., nofun⟩
  case jam op =>
    exact cpuFrame_of_eq (l := []) (f := fun c => { c with pc := c.pc - 1, jammed := true }) h rfl
      (by rw [perform_nil]) ⟨keepsFlags_refl .., keepsRegisters_none .., nofun⟩

/-- What `exec_uniform` says of an instruction that answers `t`, beside its accesses: it touches none of the latches,
tables, inputs and records, keeps `P.B`, and sets `jammed` only as `jam`. -/
structure OutsideFrame (i : Instr) (s t : State) : Prop where
  untouched : untouched s t
  breakFlag : t.cpu.p.b = s.cpu.p.b
  jammed : t.cpu.jammed = (isJam i || s.cpu.jammed)

theorem exec_outsideFrame (h : exec i s = .next t) : OutsideFrame i s t := by
  obtain ⟨L, F, hu⟩ := exec_uniform i
  rw [next_inj h (hu.eq s)]
  exact ⟨⟨rfl, rfl, rfl, rfl, rfl, rfl, rfl, rfl, rfl⟩, hu.breakFlag rfl, hu.jammed _ _⟩

/-- Settles O29: the frame of the flags, instruction by instruction, and that every instruction keeps `P.B`. -/
theorem flagsFrame : Obligations.FlagsFrame := by
  unfold Obligations.FlagsFrame
  intro i s t h
  obtain ⟨hn, hv, hd, hi, hz, hc⟩ := (exec_cpuFrame h).flags
  exact ⟨hn, hv, hd, hi, hz, hc, (exec_outsideFrame h).breakFlag⟩

/-- Settles O30: the frame of the registers, instruction by instruction, and what no instruction touches. -/
theorem registersFrame : Obligations.RegistersFrame := by
  unfold Obligations.RegistersFrame
  intro i s t h
  obtain ⟨ha, hx, hy, hsp⟩ := (exec_cpuFrame h).registers
  have ho := exec_outsideFrame h
  refine ⟨ha, hx, hy, hsp, fun hj => ?_, ho.untouched⟩
  rw [ho.jammed, isJam_eq_false.2 hj, Bool.false_or]

theorem encode_length_pos (i : Instr) : 0 < (encode i).length := by
  cases i <;> exact Nat.succ_pos _

/-- Past the operand bytes is past the instruction, whose opcode is one byte before `PC`. -/
theorem pc_past_operands (pc : Word) {n : Nat} (hn : 0 < n) :
    pc + BitVec.ofNat 16 (n - 1) = pc - 1 + BitVec.ofNat 16 n := by
  obtain ⟨m, rfl⟩ : ∃ m, n = m + 1 := ⟨n - 1, by omega⟩
  rw [Nat.add_sub_cancel, BitVec.ofNat_add]
  bv_omega

/-- Settles O33: `PC` is past the operand bytes, of which there is one fewer than bytes of the instruction. -/
theorem pcMovesPastTheInstruction : Obligations.PcMovesPastTheInstruction := by
  unfold Obligations.PcMovesPastTheInstruction
  intro i s t _ hc h
  rw [(exec_cpuFrame h).pc hc, pc_past_operands _ (encode_length_pos i)]

end Sys2Proof.Machine

/-! PROOFS (10_state.md R34, R38, R32). What a step leaves in the latches, and when it enters the jam. -/

namespace Sys2Proof.Machine

variable {s t : State}

theorem not_reachesFetch_of_awaiting (h : engineState s = .awaitingInterruptService) : ¬ ReachesFetch s := by
  rintro ⟨hj, hp, -, hi⟩
  simp [engineState, hj, hp, hi] at h

/-- What any step of an engine that is not jammed leaves in the inputs and the interrupt latches (60_exceptions.md R311,
R313). -/
structure LatchesSampled (s t : State) : Prop where
  nmiPrev : t.nmiPrev = s.nmiLine
  nmiPending : t.nmiPending = false
  irqLine : t.irqLine = s.irqLine
  nmiLine : t.nmiLine = s.nmiLine

theorem latchesSampled_of_step (hj : s.cpu.jammed = false) (h : step s = .next t) : LatchesSampled s t := by
  have pending (hr : ReachesFetch s) : s.nmiPending = false := hr.2.1
  rcases step_kinds s with hj' | ⟨-, hd⟩ | ⟨hr, hs, b, hb, he⟩ | ⟨hr, hn⟩
  · cases hj.symm.trans hj'
  · rw [next_inj h (step_interrupt hj hd)]
    exact ⟨rfl, rfl, rfl, rfl⟩
  · rw [next_inj h (step_trap hr hs hb he)]
    exact ⟨rfl, pending hr, rfl, rfl⟩
  · obtain ⟨L, F, hu⟩ := exec_uniform (instrAt s.bus s.cpu.pc)
    rw [next_inj h (step_instruction hr hn hu)]
    exact ⟨rfl, pending hr, rfl, rfl⟩

/-- A line that stays asserted is no new NMI (60_exceptions.md R311). -/
theorem LatchesSampled.not_nmiDue (h : LatchesSampled s t) (hl : s.nmiLine = true) : ¬ NmiDue t := by
  simp [NmiDue, h.nmiPending, h.nmiPrev, hl]

/-- Settles O38: a step from AwaitingInterruptService cannot reach the fetch stage, so it is an interrupt sequence. -/
theorem interruptServiceIsOneStep : Obligations.InterruptServiceIsOneStep := by
  unfold Obligations.InterruptServiceIsOneStep
  intro s t hj h
  have hl := latchesSampled_of_step hj h
  refine ⟨hl.nmiPrev, hl.nmiPending, hl.irqLine, hl.nmiLine, hl.not_nmiDue, fun ha => ?_⟩
  have hf := not_reachesFetch_of_awaiting ha
  have hd : InterruptDue s := by
    rcases step_kinds s with hj' | ⟨-, hd⟩ | ⟨hr, -⟩ | ⟨hr, -⟩
    · cases hj.symm.trans hj'
    · exact hd
    · exact absurd hr hf
    · exact absurd hr hf
  have ht := next_inj h (step_interrupt hj hd)
  have hi : t.cpu.p.i = true := by rw [ht]; rfl
  have hjt : t.cpu.jammed = false := by rw [ht]; exact hj
  refine ⟨hi, hjt, ?_, ?_⟩
  · rw [ht]
    simp [State.afterInterrupt, State.afterEntry, interruptPushes, entryPushes, State.atInterrupt]
  · simp [engineState, hi, hjt, hl.nmiPending]

/-- `jam` is decoded from an undefined opcode only, and holds that opcode (46_undefined_opcodes.md R270). -/
theorem undefined_of_decodeBytes_isJam {opcode byte1 byte2 : Byte} (h : isJam (decodeBytes opcode byte1 byte2) = true) :
    opcode ∈ undefinedOpcodes ∧ decodeBytes opcode byte1 byte2 = .jam opcode := by
  cases ho : opcodeRow opcode with
  | none => exact ⟨opcodeRow_eq_none.1 ho, decodeBytes_none ho byte1 byte2⟩
  | some r =>
    -- A row's instruction is well-formed and begins with the row's opcode, so it is no `jam`.
    obtain ⟨op, hi⟩ := isJam_eq_true.1 h
    have hw := table_wellFormed r (opcodeRow_mem ho) byte1 byte2
    have he := row_encode ho byte1 byte2
    rw [← decodeBytes_some ho, hi] at hw he
    have hop : op = opcode := by
      have hhead := congrArg List.head? he
      rcases format_length r.format with hl | hl | hl <;> simpa [encode, hl] using hhead
    have hu : op ∈ undefinedOpcodes := by simpa [Instr.wellFormed] using hw
    rw [hop, ← opcodeRow_eq_none, ho] at hu
    cases hu

/-- A step that runs `jam` (46_undefined_opcodes.md R270, 60_exceptions.md R325). -/
theorem runInstruction_jam {op : Byte} (h : instrAt s.bus s.cpu.pc = .jam op) :
    runInstruction s.atFetch =
      .next (finish ((s.atFetch.perform [.read s.cpu.pc]).mapCpu fun c => { c with jammed := true })) := by
  unfold runInstruction
  rw [fetch_eq]
  show finishResult (exec (instrAt s.bus s.cpu.pc) _) = _
  rw [h]
  show Host.Outcome.next (finish (State.mapCpu _ _)) = _
  rw [mapCpu_mapCpu]
  have hpc : s.atFetch.cpu.pc + 1 - 1 = s.atFetch.cpu.pc := BitVec.add_sub_cancel _ _
  refine congrArg (fun x => Host.Outcome.next (finish x)) (mapCpu_congr ?_)
  simp only [perform_cpu, hpc]

/-- Settles O54: of the four kinds of a step only one that runs `jam` sets `jammed`, and `jam` is decoded from an
undefined opcode only; it has no access but the opcode fetch and puts `PC` back. -/
theorem onlyUndefinedOpcodesJam : Obligations.OnlyUndefinedOpcodesJam := by
  unfold Obligations.OnlyUndefinedOpcodesJam
  intro s t hj h ht
  rcases step_kinds s with hj' | ⟨-, hd⟩ | ⟨hr, hs, b, hb, he⟩ | ⟨hr, hn⟩
  · cases hj.symm.trans hj'
  · rw [next_inj h (step_interrupt hj hd)] at ht
    cases hj.symm.trans ht
  · rw [next_inj h (step_trap hr hs hb he)] at ht
    cases hj.symm.trans ht
  · obtain ⟨L, F, hu⟩ := exec_uniform (instrAt s.bus s.cpu.pc)
    rw [next_inj h (step_instruction hr hn hu), finish_cpu, mapCpu_cpu, hu.jammed] at ht
    have hjam : isJam (instrAt s.bus s.cpu.pc) = true := by
      have : s.atFetch.cpu.jammed = false := hj
      simpa [this] using ht
    obtain ⟨hop, hi⟩ := undefined_of_decodeBytes_isJam hjam
    rw [next_inj h ((step_run hr hn).trans (runInstruction_jam hi))]
    exact ⟨hop, rfl, rfl, rfl, rfl⟩

end Sys2Proof.Machine

/-! PROOFS (10_state.md R27, R33). The step from a state with another cycle count, or with another `P.B`. -/

namespace Sys2Proof.Machine

variable {s t : State}

/-- The same state `n` cycles later. -/
abbrev State.later (n : Nat) (s : State) : State := s.withCycles (s.cycles + n)

/-- The accesses and the outcome of a step go along with a later cycle count. -/
theorem finish_perform_later (n : Nat) (u : State) (l : List Request) (f : ProcessorState → ProcessorState) :
    finish (((u.later n).perform l).mapCpu f) = (finish ((u.perform l).mapCpu f)).later n := by
  have e : u.cycles + n + l.length = u.cycles + l.length + n := Nat.add_right_comm ..
  show finish ((((u.perform l).mapCpu f)).withCycles (u.cycles + n + l.length)) = _
  rw [e]
  rfl

theorem step_later (n : Nat) (h : step s = .next t) : step (s.later n) = .next (t.later n) := by
  rcases step_kinds s with hj | ⟨hj, hd⟩ | ⟨hr, hs, b, hb, he⟩ | ⟨hr, hn⟩
  · rw [next_inj h (step_jammed hj)]
    exact step_jammed (s := s.later n) hj
  · rw [next_inj h (step_interrupt hj hd), step_interrupt (s := s.later n) hj hd]
    exact congrArg _ (finish_perform_later n s.atInterrupt _ _)
  · rw [next_inj h (step_trap hr hs hb he)]
    exact step_trap (s := s.later n) hr hs hb he
  · obtain ⟨L, F, hu⟩ := exec_uniform (instrAt s.bus s.cpu.pc)
    rw [next_inj h (step_instruction hr hn hu), step_instruction (s := s.later n) hr hn hu]
    exact congrArg _ (finish_perform_later n s.atFetch _ _)

/-- The accesses of a step, and a change of ProcessorState that goes along with `setB`, go along with another `P.B`; the
outcome shows it. -/
theorem finish_perform_withBreakFlag (b : Bool) (u : State) (l : List Request) {f g : ProcessorState → ProcessorState}
    (hg : g (u.cpu.setB b) = (f u.cpu).setB b) :
    { finish (((u.withBreakFlag b).perform l).mapCpu g) with outcome := (finish ((u.perform l).mapCpu f)).outcome } =
      (finish ((u.perform l).mapCpu f)).withBreakFlag b :=
  congrArg (fun c => { finish ((u.perform l).mapCpu f) with cpu := c }) hg

theorem step_withBreakFlag (b : Bool) (h : step s = .next t) :
    ∃ u, step (s.withBreakFlag b) = .next u ∧ { u with outcome := t.outcome } = t.withBreakFlag b := by
  rcases step_kinds s with hj | ⟨hj, hd⟩ | ⟨hr, hs, r, hb, he⟩ | ⟨hr, hn⟩
  · rw [next_inj h (step_jammed hj)]
    exact ⟨_, step_jammed (s := s.withBreakFlag b) hj, rfl⟩
  · rw [next_inj h (step_interrupt hj hd)]
    exact ⟨_, step_interrupt (s := s.withBreakFlag b) hj hd, finish_perform_withBreakFlag b s.atInterrupt _ rfl⟩
  · rw [next_inj h (step_trap hr hs hb he)]
    exact ⟨_, step_trap (s := s.withBreakFlag b) hr hs hb he, rfl⟩
  · obtain ⟨L, F, hu⟩ := exec_uniform (instrAt s.bus s.cpu.pc)
    rw [next_inj h (step_instruction hr hn hu)]
    refine ⟨_, step_instruction (s := s.withBreakFlag b) hr hn hu, ?_⟩
    have hL : L (s.withBreakFlag b).fetched.view = L s.fetched.view := hu.list_setB s.fetched.view b
    rw [hL]
    exact finish_perform_withBreakFlag b s.atFetch _ (hu.fun_setB s.fetched.view b { s.cpu with pc := s.cpu.pc + 1 })

/-- Settles O44: both states step by the same kind of step, with the same accesses. -/
theorem cyclesAndBreakFlagInfluenceNothing : Obligations.CyclesAndBreakFlagInfluenceNothing := by
  unfold Obligations.CyclesAndBreakFlagInfluenceNothing
  exact fun s t n b h => ⟨step_later n h, step_withBreakFlag b h⟩

end Sys2Proof.Machine

/-! PROOFS (10_state.md R28, R29). The packed status. -/

namespace Sys2Proof.Machine

/-- The packed status holds each flag at its bit (10_state.md R28). -/
theorem bits_packP (b : Bool) (p : Flags) :
    bit (packP b p) 7 = p.n ∧ bit (packP b p) 6 = p.v ∧ bit (packP b p) 3 = p.d ∧ bit (packP b p) 2 = p.i ∧
      bit (packP b p) 1 = p.z ∧ bit (packP b p) 0 = p.c := by
  have h : ∀ b n v d i z c : Bool, let w := packP b ⟨n, v, false, d, i, z, c⟩
      bit w 7 = n ∧ bit w 6 = v ∧ bit w 3 = d ∧ bit w 2 = i ∧ bit w 1 = z ∧ bit w 0 = c := by
    decide
  exact h b p.n p.v p.d p.i p.z p.c

theorem unpackP_packP (b : Bool) (p q : Flags) : unpackP (packP b p) q = { p with b := q.b } := by
  obtain ⟨hn, hv, hd, hi, hz, hc⟩ := bits_packP b p
  simp only [unpackP, hn, hv, hd, hi, hz, hc]

/-- Settles O27: the weights are those of the definition, and each flag is read back at its bit. -/
theorem packedStatusRoundTrip : Obligations.PackedStatusRoundTrip := by
  unfold Obligations.PackedStatusRoundTrip
  refine fun b p q => ⟨?_, unpackP_packP b p q⟩
  simp only [packP, Nat.mul_comm]

end Sys2Proof.Machine

/-! PROOFS (20_memory.md R61, R62, R66, R67). What the bus answers for each handler of an address, and that a step counts
its accesses. -/

namespace Sys2Proof.Machine

variable {s : State}

/-! The handlers of the bus: with no map every address is RAM; what a read does to a device, and a write to each of the
three. -/

section Handlers

variable {b : Bus} {a : Word} (v : Byte)

theorem target_of_no_regions (h : b.regions = []) (a : Word) : b.target a = .ram := by
  simp [Bus.target, h]

theorem busRead_of_device (h : b.target a = .device) :
    busRead b a = (Config.deviceAnswer b.events a, { b with events := b.events ++ [.read a] }) := by
  simp only [busRead, h]

theorem busWrite_of_ram (h : b.target a = .ram) : busWrite b a v = { b with mem := b.mem.write a v } := by
  simp only [busWrite, h]

theorem busWrite_of_rom (h : b.target a = .rom) : busWrite b a v = b := by
  simp only [busWrite, h]

theorem busWrite_of_device (h : b.target a = .device) :
    busWrite b a v = { b with events := b.events ++ [.write a v] } := by
  simp only [busWrite, h]

/-- A write to RAM shows at its address, and at no other where no device answers. -/
theorem peek_busWrite_of_ram {c : Word} (ha : b.target a = .ram) (hc : b.target c ≠ .device) :
    peek (busWrite b a v) c = if c = a then v else peek b c := by
  have hw : (busWrite b a v).target c ≠ .device := by rwa [target_congr (busWrite_regions b a v)]
  rw [peek_of_not_device _ _ hw, peek_of_not_device b c hc, busWrite_of_ram v ha, read_write]

/-- In the canonical form (log 14) a byte written over itself leaves the list of bytes as it was. -/
theorem busWrite_read_self (hm : b.mem.wf) (h : b.target a = .ram) : busWrite b a (b.mem.read a) = b := by
  rw [busWrite_of_ram _ h, write_read_self hm]

end Handlers

/-- Settles O51, handler by handler; one read or write is one request, which keeps the canonical form. -/
theorem busServesRamRomAndDevices : Obligations.BusServesRamRomAndDevices := by
  unfold Obligations.BusServesRamRomAndDevices
  intro b a c v
  exact ⟨fun h => target_of_no_regions h a, busRead_of_not_device b a, busRead_of_device, rfl, peek_busWrite_of_ram v,
    busWrite_of_rom v, busWrite_of_device v,
    fun hm => ⟨serve_wf hm (.read a), serve_wf hm (.write a v), busWrite_read_self hm⟩⟩

section Ran

variable {u : State} {l : List Request} {f : ProcessorState → ProcessorState}

theorem Ran.cycles (h : Ran s u l f) : u.cycles = s.cycles := by rcases h.start with rfl | rfl <;> rfl

theorem Ran.trace (h : Ran s u l f) : u.trace = [] := by rcases h.start with rfl | rfl <;> rfl

/-- The trace of a step that ran is as long as the list of its requests. -/
theorem Ran.trace_length (h : Ran s u l f) : (finish ((u.perform l).mapCpu f)).trace.length = l.length := by
  rw [finish_trace, mapCpu_trace, perform_trace, h.trace, List.nil_append, accesses_length]

end Ran

/-- Settles O45, by the three shapes of a step: a jammed step and a breakpoint trap make no access, and any other step
performs at most seven requests, each a cycle and a trace entry. -/
theorem cyclesCountAccesses : Obligations.CyclesCountAccesses := by
  unfold Obligations.CyclesCountAccesses
  intro s t h
  rcases step_form s with ⟨-, e⟩ | ⟨-, -, bps, -, e⟩ | ⟨-, u, l, f, hr, e⟩
  · rw [next_inj h e]
    exact ⟨rfl, Nat.zero_le 7⟩
  · rw [next_inj h e]
    exact ⟨rfl, Nat.zero_le 7⟩
  · rw [next_inj h e, hr.trace_length]
    refine ⟨?_, hr.length⟩
    rw [finish_cycles, mapCpu_cycles, perform_cycles, hr.cycles]

end Sys2Proof.Machine

/-! PROOFS (30_encoding.md R90 to R99). The decoder and the encoder: what an opcode decodes to with the two bytes after
it, that every well-formed instruction is decoded so, and what a list of bytes decodes to. -/

namespace Sys2Proof.Machine

/-! From the opcode and the two bytes after it to the instruction, and back to the bytes of its length. -/

section DecodeBytes

variable (opcode byte1 byte2 : Byte)

theorem decodeBytes_wellFormed : (decodeBytes opcode byte1 byte2).wellFormed = true := by
  cases h : opcodeRow opcode with
  | none =>
    rw [decodeBytes_none h]
    exact List.contains_iff_mem.2 (opcodeRow_eq_none.1 h)
  | some r =>
    rw [decodeBytes_some h]
    exact table_wellFormed r (opcodeRow_mem h) byte1 byte2

theorem encode_decodeBytes :
    encode (decodeBytes opcode byte1 byte2) = [opcode, byte1, byte2].take (instrLength opcode) := by
  cases h : opcodeRow opcode with
  | none => rw [decodeBytes_none h, instrLength_none h]; rfl
  | some r => rw [decodeBytes_some h, instrLength_some h, row_encode h]

theorem decodeBytes_eq_jam_iff : (∃ o, decodeBytes opcode byte1 byte2 = .jam o) ↔ opcode ∈ undefinedOpcodes :=
  ⟨fun h => (undefined_of_decodeBytes_isJam (isJam_eq_true.2 h)).1,
    fun h => ⟨opcode, decodeBytes_none (opcodeRow_eq_none.2 h) byte1 byte2⟩⟩

/-- The length of an opcode is 1, 2 or 3 (30_encoding.md R91, R92). -/
theorem instrLength_cases : instrLength opcode = 1 ∨ instrLength opcode = 2 ∨ instrLength opcode = 3 := by
  cases h : opcodeRow opcode with
  | none => exact .inl (instrLength_none h)
  | some r => rw [instrLength_some h]; exact format_length r.format

end DecodeBytes

/-- The length of an instruction that a row builds from these operand bytes (30_encoding.md R93). -/
def buildLength : Build → Nat
  | .none _ => 1
  | .byte _ => 2
  | .word _ => 3

/-- A row builds its instruction from as many operand bytes as its format has. -/
theorem format_length_eq_buildLength {r : Row} (h : r ∈ opcodeTable) : r.format.length = buildLength r.build := by
  have hall : opcodeTable.all (fun r => r.format.length == buildLength r.build) = true := rfl
  exact beq_iff_eq.1 (List.all_eq_true.1 hall r h)

/-- A byte past the length of the opcode takes no part in the decoding. -/
theorem decodeBytes_congr {opcode b1 b2 c1 c2 : Byte}
    (h : [opcode, b1, b2].take (instrLength opcode) = [opcode, c1, c2].take (instrLength opcode)) :
    decodeBytes opcode b1 b2 = decodeBytes opcode c1 c2 := by
  cases ho : opcodeRow opcode with
  | none => rw [decodeBytes_none ho, decodeBytes_none ho]
  | some r =>
    rw [instrLength_some ho, format_length_eq_buildLength (opcodeRow_mem ho)] at h
    rw [decodeBytes_some ho, decodeBytes_some ho]
    cases hb : r.build with
    | none => rfl
    | byte =>
      simp only [hb, buildLength, List.take_succ_cons, List.take_zero, List.cons.injEq, true_and, and_true] at h
      simp only [Build.apply, h]
    | word =>
      simp only [hb, buildLength, List.take_succ_cons, List.take_zero, List.cons.injEq, true_and, and_true] at h
      rw [h.1, h.2]

/-! The opcodes of the table. -/

theorem table_opcodes_nodup : (opcodeTable.map Row.opcode).Nodup := by
  have hne : opcodeTable.Pairwise fun q r => q.opcode.toNat ≠ r.opcode.toNat := List.pairwise_map.1 table_nodup
  exact List.pairwise_map.2 (hne.imp fun hn e => hn (congrArg BitVec.toNat e))

theorem row_eq_of_opcode_eq {q r : Row} (hq : q ∈ opcodeTable) (hr : r ∈ opcodeTable) (h : q.opcode = r.opcode) :
    q = r := by
  have hne : opcodeTable.Pairwise fun q r => q.opcode ≠ r.opcode := List.pairwise_map.1 table_opcodes_nodup
  exact List.Pairwise.forall_of_forall_of_flip (R := fun q r => q.opcode = r.opcode → q = r) (fun _ _ _ => rfl)
    (hne.imp fun hn e => absurd e hn) (hne.imp fun hn e => absurd e.symm hn) hq hr h

/-- The opcode of a row of the table finds that row (30_encoding.md R99). -/
theorem opcodeRow_of_mem {r : Row} (h : r ∈ opcodeTable) : opcodeRow r.opcode = some r := by
  obtain ⟨q, hq⟩ : ∃ q, opcodeRow r.opcode = some q :=
    Option.isSome_iff_exists.1 (List.find?_isSome.2 ⟨r, h, beq_self_eq_true _⟩)
  rw [hq, row_eq_of_opcode_eq (opcodeRow_mem hq) h (opcodeRow_opcode hq)]

theorem mem_table_opcodes {opcode : Byte} : opcode ∈ opcodeTable.map Row.opcode ↔ opcode ∉ undefinedOpcodes := by
  rw [← opcodeRow_eq_none, opcodeRow, List.find?_eq_none, List.mem_map]
  simp only [beq_iff_eq, Classical.not_forall, Classical.not_not, exists_prop]

/-- One row of the table has a defined opcode, and none an undefined one (30_encoding.md R97, R99). -/
theorem table_filter_length (opcode : Byte) :
    (opcodeTable.filter fun r => r.opcode == opcode).length = if opcode ∈ undefinedOpcodes then 0 else 1 := by
  have hcount :
      (opcodeTable.filter fun r => r.opcode == opcode).length = (opcodeTable.map Row.opcode).count opcode := by
    rw [List.count, List.countP_map, List.countP_eq_length_filter]
    rfl
  rw [hcount, table_opcodes_nodup.count]
  simp only [mem_table_opcodes, ite_not]

/-! Every well-formed instruction is the one some opcode and operand bytes decode to. -/

/-- The rows of the opcode table stand in the order of the constructors of `Instr`: the row at the place of a constructor
builds the instruction from the operand bytes of its encoding. -/
theorem table_getElem?_ctorIdx {i : Instr} (h : isJam i = false) :
    ∃ r, opcodeTable[i.ctorIdx]? = some r ∧ r.build.apply ((encode i).getD 1 0) ((encode i).getD 2 0) = i := by
  cases i
  case jam => cases h
  all_goals exact ⟨_, rfl, by simp [Build.apply, encode]⟩

theorem exists_decodeBytes {i : Instr} (h : i.wellFormed = true) :
    ∃ opcode byte1 byte2, decodeBytes opcode byte1 byte2 = i := by
  cases hj : isJam i with
  | true =>
    obtain ⟨op, rfl⟩ := isJam_eq_true.1 hj
    exact ⟨op, 0, 0, decodeBytes_none (opcodeRow_eq_none.2 (List.contains_iff_mem.1 h)) 0 0⟩
  | false =>
    obtain ⟨r, hr, hi⟩ := table_getElem?_ctorIdx hj
    exact ⟨r.opcode, _, _, (decodeBytes_some (opcodeRow_of_mem (List.mem_of_getElem? hr)) _ _).trans hi⟩

/-! From a list of bytes to the instruction and the bytes left. -/

theorem decode_cons (opcode : Byte) {tail : List Byte} (h : instrLength opcode ≤ tail.length + 1) :
    decode (opcode :: tail) =
      .ok (decodeBytes opcode (tail.getD 0 0) (tail.getD 1 0), tail.drop (instrLength opcode - 1)) :=
  if_neg (Nat.not_lt.2 h)

/-- As `decode_cons`, from the bytes that count and the bytes left. -/
theorem decode_cons_of_take {opcode byte1 byte2 : Byte} {tail rest : List Byte}
    (hlen : instrLength opcode ≤ tail.length + 1)
    (htake : [opcode, tail.getD 0 0, tail.getD 1 0].take (instrLength opcode) =
      [opcode, byte1, byte2].take (instrLength opcode))
    (hdrop : tail.drop (instrLength opcode - 1) = rest) :
    decode (opcode :: tail) = .ok (decodeBytes opcode byte1 byte2, rest) := by
  rw [decode_cons opcode hlen, decodeBytes_congr htake, hdrop]

/-- The decoder takes the bytes of the opcode's length off the list. -/
theorem decode_take_append (opcode byte1 byte2 : Byte) (rest : List Byte) :
    decode ([opcode, byte1, byte2].take (instrLength opcode) ++ rest) =
      .ok (decodeBytes opcode byte1 byte2, rest) := by
  rcases instrLength_cases opcode with hl | hl | hl <;> rw [hl] <;>
    exact decode_cons_of_take (by simp [hl]) (by simp [hl]) (by simp [hl])

/-- A list of bytes that decodes is the bytes of one instruction and the bytes left. -/
theorem eq_take_append_of_decode {bytes rest : List Byte} {i : Instr} (h : decode bytes = .ok (i, rest)) :
    ∃ opcode byte1 byte2, i = decodeBytes opcode byte1 byte2 ∧
      bytes = [opcode, byte1, byte2].take (instrLength opcode) ++ rest := by
  cases bytes with
  | nil => cases h
  | cons opcode tail =>
    by_cases hlt : tail.length + 1 < instrLength opcode
    · cases (if_pos hlt).symm.trans h
    · have hle := Nat.not_lt.1 hlt
      rw [decode_cons opcode hle] at h
      cases h
      refine ⟨opcode, _, _, rfl, ?_⟩
      rcases instrLength_cases opcode with hl | hl | hl <;> rw [hl] at hle ⊢
      · rfl
      · match tail, hle with
        | _ :: _, _ => rfl
      · match tail, hle with
        | _ :: _ :: _, _ => rfl

/-! The statements. -/

/-- Settles O2: a well-formed instruction is decoded from an opcode and two bytes; its encoding is as many of them as the
opcode's length, and the decoder takes just these off the list. -/
theorem decodeAfterEncodeIsIdentity : Obligations.DecodeAfterEncodeIsIdentity := by
  unfold Obligations.DecodeAfterEncodeIsIdentity
  intro i rest h
  obtain ⟨opcode, byte1, byte2, rfl⟩ := exists_decodeBytes h
  rw [encode_decodeBytes, decode_take_append]

/-- Settles O3: the bytes that decode are those of the opcode's length, which are the encoding, and the rest. -/
theorem encodeAfterDecodeIsIdentity : Obligations.EncodeAfterDecodeIsIdentity := by
  unfold Obligations.EncodeAfterDecodeIsIdentity
  intro bytes rest i h
  obtain ⟨opcode, byte1, byte2, rfl, hbytes⟩ := eq_take_append_of_decode h
  exact ⟨decodeBytes_wellFormed opcode byte1 byte2, by rw [encode_decodeBytes, hbytes]⟩

/-- Settles O4, from what an opcode and two bytes decode to; no two rows have one opcode. -/
theorem decoderIsTotalByOpcode : Obligations.DecoderIsTotalByOpcode := by
  unfold Obligations.DecoderIsTotalByOpcode
  intro opcode byte1 byte2
  exact ⟨table_filter_length opcode, decodeBytes_wellFormed opcode byte1 byte2, encode_decodeBytes opcode byte1 byte2,
    decodeBytes_eq_jam_iff opcode byte1 byte2, Laws.EncodeLength.instrLength_undefined opcode⟩

/-- Settles O1: each byte string is the encoding of its instruction and the bytes after it. -/
theorem decodeGivesListedWords : Obligations.DecodeGivesListedWords := by
  unfold Obligations.DecodeGivesListedWords
  have h := decodeAfterEncodeIsIdentity
  exact ⟨h (.ldaImm 0x42) [] rfl, h (.ldxZpy 0x10) [] rfl, h (.staAbs 0xD020) [] rfl, h .txs [] rfl,
    h (.ldaIndy 0x20) [] rfl, h (.adcAbsx 0x1234) [] rfl, h (.sbcImm 0x01) [] rfl, h (.bitZp 0x10) [] rfl,
    h .aslAcc [] rfl, h (.incAbsx 0x0200) [] rfl, h (.jmpInd 0xFFFC) [] rfl, h (.jsr 0x0700) [] rfl,
    h (.bne 0x03) [] rfl, h .brk [] rfl, h .plp [] rfl, h .nop [0x18] rfl, h (.jam 0x02) [0xFF] rfl⟩

end Sys2Proof.Machine

/-! PROOFS (40_step_and_addressing.md R132 to R146, R230 to R242). Address resolution, the operand classes, jumps and
branches. -/

namespace Sys2Proof.Machine

variable {s : State}

/-- `early` of a base and an index is their sum just when the low byte and the index have no carry
(40_step_and_addressing.md R137). -/
theorem early_eq_sum_iff (w : Word) (x : Byte) :
    BitVec.ofNat 16 (w.toNat / 256 * 256 + (w.toNat % 256 + x.toNat) % 256) = BitVec.ofNat 16 (w.toNat + x.toNat) ↔
      decide (0xFF < w.toNat % 256 + x.toNat) = false := by
  have hw := w.isLt
  have hx := x.isLt
  rw [← BitVec.toNat_inj, BitVec.toNat_ofNat, BitVec.toNat_ofNat, decide_eq_false_iff_not]
  omega

theorem early_eq_effectiveAddress_iff {m : Mode} {e : Word} (h : earlyAddress m s = some e) :
    e = effectiveAddress m s ↔ pageCrossed m s = false := by
  cases m with
  | zp z | zpx z | zpy z | abs w | indx z => cases h
  | absx w | absy w | indy z =>
    cases h
    exact early_eq_sum_iff _ _

/-- Settles O5, from the laws of the operand classes; `early` is `ea` when the index gives no carry. -/
theorem operandAccess : Obligations.OperandAccess := by
  unfold Obligations.OperandAccess
  intro s m src v f
  exact ⟨resolve_eq s m, fun _ => early_eq_effectiveAddress_iff, loadOperand_eq s src, storeOperand_eq s m v,
    modifyOperand_eq s m f, modifyAccumulator_eq s f⟩

/-- Settles O17: each branch runs `branch` on its own condition. -/
theorem branchesFollowTheirFlag : Obligations.BranchesFollowTheirFlag := by
  unfold Obligations.BranchesFollowTheirFlag
  intro s rel8 op i cond h
  simp only [List.mem_cons, List.not_mem_nil, or_false, Prod.mk.injEq] at h
  rcases h with ⟨rfl, rfl, rfl⟩ | ⟨rfl, rfl, rfl⟩ | ⟨rfl, rfl, rfl⟩ | ⟨rfl, rfl, rfl⟩ | ⟨rfl, rfl, rfl⟩ |
      ⟨rfl, rfl, rfl⟩ | ⟨rfl, rfl, rfl⟩ | ⟨rfl, rfl, rfl⟩ <;>
    exact ⟨rfl, congrArg _ (branch_eq s _ rel8)⟩

/-- The second byte of a pointer of `JMP` indirect stays in the page of the first (40_step_and_addressing.md R142). -/
theorem pointerSecond_eq (w : Word) :
    word (hiByte w) (loByte w + 1) = BitVec.ofNat 16 (w.toNat / 256 * 256 + (w.toNat % 256 + 1) % 256) :=
  early_eq w 1

/-- Settles O18, from the access lists of the two jumps. -/
theorem jumpsSetPc : Obligations.JumpsSetPc := by
  unfold Obligations.JumpsSetPc
  intro s w operands second
  refine ⟨rfl, congrArg _ (opJmpAbs_eq s w), rfl, (congrArg _ (opJmpInd_eq s w)).trans ?_⟩
  rw [pointerSecond_eq]
  rfl

end Sys2Proof.Machine

/-! PROOFS (40_step_and_addressing.md R121 to R127). What a step runs, and the outcome it has. -/

namespace Sys2Proof.Machine

variable {s : State}

theorem Ran.watchHit {u : State} {l : List Request} {f : ProcessorState → ProcessorState} (h : Ran s u l f) :
    u.watchHit = none := by
  rcases h.start with rfl | rfl <;> rfl

/-- The match of a step that ran is the first of its own trace (20_memory.md R65). -/
theorem Ran.firstMatch_trace {u : State} {l : List Request} {f : ProcessorState → ProcessorState} (h : Ran s u l f) :
    firstMatch s.wps (finish ((u.perform l).mapCpu f)).trace = ((u.perform l).mapCpu f).watchHit := by
  simp only [finish_trace, mapCpu_trace, perform_trace, mapCpu_watchHit, perform_watchHit, h.trace, h.wps, h.watchHit,
    List.nil_append, Option.none_or]

/-- Settles O41, by the three shapes of a step: the outcome of one that ran is set from the state it ends in, whose match
is the first of its trace. -/
theorem outcomeOfAStep : Obligations.OutcomeOfAStep := by
  unfold Obligations.OutcomeOfAStep
  intro s t h
  rcases step_form s with ⟨hj, e⟩ | ⟨hj, -, bps, -, e⟩ | ⟨hj, u, l, f, hr, e⟩
  · rw [next_inj h e]
    exact ⟨fun _ => ⟨rfl, rfl⟩, fun hn => absurd (hn.symm.trans hj) nofun⟩
  · rw [next_inj h e]
    exact ⟨fun hn => absurd (hn.symm.trans hj) nofun, fun _ => .inl ⟨rfl, rfl, rfl⟩⟩
  · rw [next_inj h e]
    refine ⟨fun hn => absurd (hn.symm.trans hj) nofun, fun _ => .inr ⟨?_, ?_⟩⟩
    · rw [ne_eq, ← List.length_eq_zero_iff, hr.trace_length, List.length_eq_zero_iff]
      exact hr.some
    · rw [hr.firstMatch_trace]
      rfl

/-! The bytes that a step decodes are those its first accesses read. -/

theorem operandCount_lt (i : Instr) : operandCount i < (encode i).length := by
  cases i <;> simp [operandCount, encode]

/-- The fetches of an opcode and of at most two operand bytes answer the bytes that the decoder is given. -/
theorem accesses_fetches (b : Bus) (pc : Word) {n : Nat} (hn : n ≤ 2) :
    b.accesses (.read pc :: (List.range n).map fun k => .read (pc + 1 + BitVec.ofNat 16 k)) =
      ([peek b pc, peek (b.after [.read pc]) (pc + 1),
        peek (b.after [.read pc, .read (pc + 1)]) (pc + 2)].take (n + 1)).zipIdx.map
        fun x => ⟨.read, pc + BitVec.ofNat 16 x.2, x.1⟩ := by
  have h2 : pc + 1#16 + 1#16 = pc + 2#16 := BitVec.add_assoc ..
  match n, hn with
  | 0, _ => simp [accesses_cons]
  | 1, _ => simp [accesses_cons, List.range_succ, after_cons]
  | 2, _ => simp [accesses_cons, List.range_succ, after_cons, h2]

theorem instrLength_le_three (opcode : Byte) : instrLength opcode ≤ 3 := by
  have := instrLength_cases opcode
  omega

/-- The trace of an instruction starts with the fetches of its opcode and operand bytes. -/
theorem take_trace_of_exec {i : Instr} {t : State} (h : exec i s.fetched = .next t) :
    t.trace.take (operandCount i + 1) =
      s.bus.accesses (.read s.cpu.pc :: fetchList (operandCount i) s.fetched) := by
  obtain ⟨L, F, hu⟩ := exec_uniform i
  obtain ⟨rest, hrest⟩ := hu.fetches s.fetched.view
  have ht : t.trace = s.bus.accesses (.read s.cpu.pc :: fetchList (operandCount i) s.fetched ++ rest) := by
    rw [next_inj h (hu.eq _), ← hrest]
    rfl
  rw [ht, accesses_append, List.take_left']
  simp [fetchList]

/-- Settles O35: the step is `exec` of the decoded instruction, whose first accesses are the fetches of the bytes it was
decoded from. -/
theorem stepRunsDecodedInstruction : Obligations.StepRunsDecodedInstruction := by
  unfold Obligations.StepRunsDecodedInstruction
  intro s i rest hr hn pc hd fetched
  have hf : fetched = (encode i).take (operandCount i + 1) := by cases i <;> rfl
  have hi : instrAt s.bus pc = i := by
    rw [decode_cons _ (instrLength_le_three _)] at hd
    exact congrArg Prod.fst (Except.ok.inj hd)
  have hlt := operandCount_lt i
  have he := (encodeAfterDecodeIsIdentity _ _ _ hd).2
  have hle : operandCount i ≤ 2 := by
    have := congrArg List.length he
    simp only [List.length_append, List.length_cons, List.length_nil] at this
    omega
  obtain ⟨L, F, hu⟩ := exec_uniform i
  have hx := hu.eq s.fetched
  refine ⟨_, hx, ?_, ?_⟩
  · rw [hf, List.length_take, Nat.min_eq_left hlt, take_trace_of_exec hx, ← List.take_append_of_le_length hlt, ← he]
    exact accesses_fetches s.bus pc hle
  · rw [step_run hr hn, runInstruction, fetch_eq]
    show finishResult (exec (instrAt s.bus pc) s.fetched) = _
    rw [hi, hx]
    rfl

end Sys2Proof.Machine

/-! PROOFS (40_step_and_addressing.md R143 to R151). The accesses of the instructions, in fourteen patterns: where each
writes, and how many there are. -/

namespace Sys2Proof.Machine

variable {s t : State} {i : Instr}

/-- How an instruction accesses the bus after its opcode fetch. -/
inductive AccessPattern where
  /-- The read class (40_step_and_addressing.md R144). -/
  | read (src : Source)
  /-- The write class (40_step_and_addressing.md R146). -/
  | store (m : Mode)
  /-- The read-modify-write class on memory (40_step_and_addressing.md R145). -/
  | modify (m : Mode)
  /-- The dummy read at `PC` alone (40_step_and_addressing.md R130). -/
  | implied
  /-- A branch on its condition (40_step_and_addressing.md R141). -/
  | branch (cond : Flags → Bool) (rel8 : Byte)
  /-- 44_control_flow.md R231. -/
  | jmpAbs
  /-- 44_control_flow.md R232. -/
  | jmpInd
  /-- 44_control_flow.md R233. -/
  | jsr
  /-- 44_control_flow.md R234. -/
  | rts
  /-- 44_control_flow.md R243. -/
  | brk
  /-- 44_control_flow.md R244. -/
  | rti
  /-- `PHA`, `PHP` (45_stack_flags_nop.md R250, R251). -/
  | push
  /-- `PLA`, `PLP` (45_stack_flags_nop.md R252, R253). -/
  | pull
  /-- No access: `jam`. -/
  | none

/-- The pattern of each instruction. -/
def accessPattern : Instr → AccessPattern
  | .ldaImm v | .ldxImm v | .ldyImm v | .adcImm v | .sbcImm v | .andImm v | .oraImm v | .eorImm v | .cmpImm v
  | .cpxImm v | .cpyImm v => .read (.imm v)
  | .ldaZp z | .ldxZp z | .ldyZp z | .adcZp z | .sbcZp z | .andZp z | .oraZp z | .eorZp z | .cmpZp z | .cpxZp z
  | .cpyZp z | .bitZp z => .read (.mem (.zp z))
  | .ldaZpx z | .ldyZpx z | .adcZpx z | .sbcZpx z | .andZpx z | .oraZpx z | .eorZpx z | .cmpZpx z =>
    .read (.mem (.zpx z))
  | .ldxZpy z => .read (.mem (.zpy z))
  | .ldaAbs w | .ldxAbs w | .ldyAbs w | .adcAbs w | .sbcAbs w | .andAbs w | .oraAbs w | .eorAbs w | .cmpAbs w
  | .cpxAbs w | .cpyAbs w | .bitAbs w => .read (.mem (.abs w))
  | .ldaAbsx w | .ldyAbsx w | .adcAbsx w | .sbcAbsx w | .andAbsx w | .oraAbsx w | .eorAbsx w | .cmpAbsx w =>
    .read (.mem (.absx w))
  | .ldaAbsy w | .ldxAbsy w | .adcAbsy w | .sbcAbsy w | .andAbsy w | .oraAbsy w | .eorAbsy w | .cmpAbsy w =>
    .read (.mem (.absy w))
  | .ldaIndx z | .adcIndx z | .sbcIndx z | .andIndx z | .oraIndx z | .eorIndx z | .cmpIndx z => .read (.mem (.indx z))
  | .ldaIndy z | .adcIndy z | .sbcIndy z | .andIndy z | .oraIndy z | .eorIndy z | .cmpIndy z => .read (.mem (.indy z))
  | .staZp z | .stxZp z | .styZp z => .store (.zp z)
  | .staZpx z | .styZpx z => .store (.zpx z)
  | .stxZpy z => .store (.zpy z)
  | .staAbs w | .stxAbs w | .styAbs w => .store (.abs w)
  | .staAbsx w => .store (.absx w)
  | .staAbsy w => .store (.absy w)
  | .staIndx z => .store (.indx z)
  | .staIndy z => .store (.indy z)
  | .aslZp z | .lsrZp z | .rolZp z | .rorZp z | .incZp z | .decZp z => .modify (.zp z)
  | .aslZpx z | .lsrZpx z | .rolZpx z | .rorZpx z | .incZpx z | .decZpx z => .modify (.zpx z)
  | .aslAbs w | .lsrAbs w | .rolAbs w | .rorAbs w | .incAbs w | .decAbs w => .modify (.abs w)
  | .aslAbsx w | .lsrAbsx w | .rolAbsx w | .rorAbsx w | .incAbsx w | .decAbsx w => .modify (.absx w)
  | .aslAcc | .lsrAcc | .rolAcc | .rorAcc | .tax | .tay | .txa | .tya | .tsx | .txs | .inx | .iny | .dex | .dey | .clc
  | .sec | .cli | .sei | .cld | .sed | .clv | .nop => .implied
  | .bcc r => .branch (fun p => !p.c) r
  | .bcs r => .branch (fun p => p.c) r
  | .beq r => .branch (fun p => p.z) r
  | .bne r => .branch (fun p => !p.z) r
  | .bmi r => .branch (fun p => p.n) r
  | .bpl r => .branch (fun p => !p.n) r
  | .bvc r => .branch (fun p => !p.v) r
  | .bvs r => .branch (fun p => p.v) r
  | .jmpAbs _ => .jmpAbs
  | .jmpInd _ => .jmpInd
  | .jsr _ => .jsr
  | .rts => .rts
  | .brk => .brk
  | .rti => .rti
  | .pha | .php => .push
  | .pla | .plp => .pull
  | .jam _ => .none

namespace AccessPattern

/-- Where the pattern writes: its operand's address, or the stack downward from `S` (40_step_and_addressing.md R145,
R146, 20_memory.md R68). -/
def writes (s : State) : AccessPattern → List Word
  | .store m | .modify m => [effectiveAddress m s]
  | .push => [stackAddress s.cpu.sp]
  | .jsr => [stackAddress s.cpu.sp, stackAddress (s.cpu.sp - 1)]
  | .brk => [stackAddress s.cpu.sp, stackAddress (s.cpu.sp - 1), stackAddress (s.cpu.sp - 1 - 1)]
  | .read _ | .implied | .branch _ _ | .jmpAbs | .jmpInd | .rts | .rti | .pull | .none => []

/-- The number of address-resolution accesses of a format (40_step_and_addressing.md R133 to R140). -/
def resolveCount : Mode → Nat
  | .zp _ => 1
  | .zpx _ | .zpy _ | .abs _ | .absx _ | .absy _ => 2
  | .indy _ => 3
  | .indx _ => 4

/-- The number of dummy reads at `early`: one for the formats that have it (40_step_and_addressing.md R137). -/
def earlyCount : Mode → Nat
  | .absx _ | .absy _ | .indy _ => 1
  | .zp _ | .zpx _ | .zpy _ | .abs _ | .indx _ => 0

/-- The accesses that the pattern always makes (40_step_and_addressing.md R130 to R146). -/
def base : AccessPattern → Nat
  | .read (.imm _) => 1
  | .read (.mem m) => resolveCount m + 1
  | .store m => resolveCount m + earlyCount m + 1
  | .modify m => resolveCount m + earlyCount m + 3
  | .implied | .branch _ _ => 1
  | .jmpAbs | .push => 2
  | .pull => 3
  | .jmpInd => 4
  | .jsr | .rts | .rti => 5
  | .brk => 6
  | .none => 0

/-- The accesses that depend on the state: the page cross of the read class and those of a taken branch
(40_step_and_addressing.md R141, R144). -/
def extra (s : State) : AccessPattern → Nat
  | .read (.mem m) => if pageCrossed m s then 1 else 0
  | .branch cond r =>
    if cond s.cpu.p then (if hiByte (branchTarget r s) = hiByte (s.cpu.pc + 1) then 1 else 2) else 0
  | _ => 0

/-- A list of requests follows the pattern: it writes only where the pattern writes, and has as many as it says. -/
structure Follows (c : AccessPattern) (s : State) (l : List Request) : Prop where
  writes : WritesOnly (c.writes s) l
  length : l.length = c.base + c.extra s

end AccessPattern

open AccessPattern (Follows)

theorem addressRequests_length_eq (m : Mode) : (addressRequests m s).length = AccessPattern.resolveCount m := by
  cases m <;> rfl

theorem earlyRequests_length_eq (m : Mode) : (earlyRequests m s).length = AccessPattern.earlyCount m := by
  cases m <;> rfl

theorem storeRequests_length_eq (m : Mode) :
    (storeRequests m s).length = AccessPattern.resolveCount m + AccessPattern.earlyCount m := by
  rw [storeRequests, List.length_append, addressRequests_length_eq, earlyRequests_length_eq]

theorem follows_read (src : Source) : Follows (.read src) s (readRequests src s) := by
  refine ⟨(readRequests_readsOnly s src).writesOnly, ?_⟩
  cases src with
  | imm v => rfl
  | mem m =>
    rw [readRequests_mem_length, addressRequests_length_eq]
    exact Nat.add_right_comm ..

/-- The reads before the data access, then writes to the operand's address. -/
theorem writesOnly_storeRequests (m : Mode) {l : List Request} (h : WritesOnly [effectiveAddress m s] l) :
    WritesOnly [effectiveAddress m s] (storeRequests m s ++ l) := by
  intro q hq a v e
  rcases List.mem_append.1 hq with hq | hq
  · exact absurd ((storeRequests_readsOnly s m).writesOnly q hq a v e) List.not_mem_nil
  · exact h q hq a v e

theorem follows_store (m : Mode) (v : Byte) : Follows (.store m) s (writeRequests m v s) := by
  refine ⟨writesOnly_storeRequests m (by simp [WritesOnly]), ?_⟩
  rw [writeRequests, List.length_append, storeRequests_length_eq]
  rfl

theorem follows_modify (m : Mode) (v : Byte) : Follows (.modify m) s (modifyRequests m v s) := by
  refine ⟨writesOnly_storeRequests m (by simp [WritesOnly]), ?_⟩
  rw [modifyRequests, List.length_append, storeRequests_length_eq]
  rfl

theorem branchRequests_readsOnly (cond : Bool) (rel8 : Byte) : ReadsOnly (branchRequests cond rel8 s) := by
  cases cond
  · simp [ReadsOnly, branchRequests]
  · by_cases h : hiByte (branchTarget rel8 s) = hiByte (s.cpu.pc + 1) <;> simp [ReadsOnly, branchRequests, h]

theorem follows_branch (cond : Flags → Bool) (rel8 : Byte) :
    Follows (.branch cond rel8) s (branchRequests (cond s.cpu.p) rel8 s) :=
  ⟨ReadsOnly.writesOnly (branchRequests_readsOnly _ rel8), branchRequests_length_eq ..⟩

theorem follows_implied : Follows .implied s [.read s.cpu.pc] := ⟨by simp [WritesOnly], rfl⟩

theorem follows_push (v : Byte) : Follows .push s [.read s.cpu.pc, .write (stackAddress s.cpu.sp) v] :=
  ⟨by simp [WritesOnly, AccessPattern.writes], rfl⟩

theorem follows_pull : Follows .pull s (pullDummies s ++ [.read (stackAbove s 1)]) :=
  ⟨by simp [WritesOnly, pullDummies], rfl⟩

theorem follows_jsr : Follows .jsr s (jsrPushes s ++ [.read (s.cpu.pc + 1)]) :=
  ⟨by simp [WritesOnly, jsrPushes, AccessPattern.writes, stackBelow_zero, stackBelow_one], rfl⟩

theorem follows_brk :
    Follows .brk s (.read s.cpu.pc :: entryPushes true (s.cpu.pc + 1) s ++ [.read irqVector, .read (irqVector + 1)]) :=
  ⟨by simp [WritesOnly, entryPushes, AccessPattern.writes, stackBelow_zero, stackBelow_one, stackBelow_two], rfl⟩

/-- Every instruction performs a list of requests that follows its pattern, and changes ProcessorState. -/
theorem exec_follows (h : exec i s = .next t) :
    ∃ l f, t = (s.perform l).mapCpu f ∧ Follows (accessPattern i) s l := by
  cases i
  case ldaImm | ldaZp | ldaZpx | ldaAbs | ldaAbsx | ldaAbsy | ldaIndx | ldaIndy =>
    exact ⟨_, _, (next_inj h rfl).trans (opLda_eq s _), follows_read _⟩
  case ldxImm | ldxZp | ldxZpy | ldxAbs | ldxAbsy =>
    exact ⟨_, _, (next_inj h rfl).trans (opLdx_eq s _), follows_read _⟩
  case ldyImm | ldyZp | ldyZpx | ldyAbs | ldyAbsx =>
    exact ⟨_, _, (next_inj h rfl).trans (opLdy_eq s _), follows_read _⟩
  case adcImm | adcZp | adcZpx | adcAbs | adcAbsx | adcAbsy | adcIndx | adcIndy =>
    exact ⟨_, _, (next_inj h rfl).trans (opAdc_eq s _), follows_read _⟩
  case sbcImm | sbcZp | sbcZpx | sbcAbs | sbcAbsx | sbcAbsy | sbcIndx | sbcIndy =>
    exact ⟨_, _, (next_inj h rfl).trans (opSbc_eq s _), follows_read _⟩
  case andImm | andZp | andZpx | andAbs | andAbsx | andAbsy | andIndx | andIndy =>
    exact ⟨_, _, (next_inj h rfl).trans (opAnd_eq s _), follows_read _⟩
  case oraImm | oraZp | oraZpx | oraAbs | oraAbsx | oraAbsy | oraIndx | oraIndy =>
    exact ⟨_, _, (next_inj h rfl).trans (opOra_eq s _), follows_read _⟩
  case eorImm | eorZp | eorZpx | eorAbs | eorAbsx | eorAbsy | eorIndx | eorIndy =>
    exact ⟨_, _, (next_inj h rfl).trans (opEor_eq s _), follows_read _⟩
  case cmpImm | cmpZp | cmpZpx | cmpAbs | cmpAbsx | cmpAbsy | cmpIndx | cmpIndy =>
    exact ⟨_, _, (next_inj h rfl).trans (opCmp_eq s _), follows_read _⟩
  case cpxImm | cpxZp | cpxAbs =>
    exact ⟨_, _, (next_inj h rfl).trans (opCpx_eq s _), follows_read _⟩
  case cpyImm | cpyZp | cpyAbs =>
    exact ⟨_, _, (next_inj h rfl).trans (opCpy_eq s _), follows_read _⟩
  case bitZp | bitAbs =>
    exact ⟨_, _, (next_inj h rfl).trans (opBit_eq s _), follows_read _⟩
  case staZp | staZpx | staAbs | staAbsx | staAbsy | staIndx | staIndy =>
    exact ⟨_, _, (next_inj h rfl).trans (opSta_eq s _), follows_store _ _⟩
  case stxZp | stxZpy | stxAbs =>
    exact ⟨_, _, (next_inj h rfl).trans (opStx_eq s _), follows_store _ _⟩
  case styZp | styZpx | styAbs =>
    exact ⟨_, _, (next_inj h rfl).trans (opSty_eq s _), follows_store _ _⟩
  case aslZp | aslZpx | aslAbs | aslAbsx | lsrZp | lsrZpx | lsrAbs | lsrAbsx | rolZp | rolZpx | rolAbs | rolAbsx | rorZp
      | rorZpx | rorAbs | rorAbsx | incZp | incZpx | incAbs | incAbsx | decZp | decZpx | decAbs | decAbsx =>
    exact ⟨_, _, (next_inj h rfl).trans (modifyOperand_eq s _ _), follows_modify _ _⟩
  case aslAcc | lsrAcc | rolAcc | rorAcc =>
    exact ⟨_, _, (next_inj h rfl).trans (modifyAccumulator_eq s _), follows_implied⟩
  case tax | tay | txa | tya | tsx | txs | inx | iny | dex | dey | clc | sec | cli | sei | cld | sed | clv =>
    exact ⟨_, _, (next_inj h rfl).trans (implied_eq s _), follows_implied⟩
  case nop => exact ⟨_, _, (next_inj h rfl).trans (implied_eq s id), follows_implied⟩
  case bcc | bcs | beq | bne | bmi | bpl | bvc | bvs =>
    exact ⟨_, _, (next_inj h rfl).trans (branch_eq s _ _), follows_branch _ _⟩
  case jmpAbs w => exact ⟨_, _, (next_inj h rfl).trans (opJmpAbs_eq s w), by simp [WritesOnly], rfl⟩
  case jmpInd w => exact ⟨_, _, (next_inj h rfl).trans (opJmpInd_eq s w), by simp [WritesOnly], rfl⟩
  case jsr w => exact ⟨_, _, (next_inj h rfl).trans (opJsr_eq s w), follows_jsr⟩
  case rts => exact ⟨_, _, (next_inj h rfl).trans (opRts_eq s), by simp [WritesOnly, rtsPulls], rfl⟩
  case brk => exact ⟨_, _, (next_inj h rfl).trans (opBrk_eq s), follows_brk⟩
  case rti => exact ⟨_, _, (next_inj h rfl).trans (opRti_eq s), by simp [WritesOnly, pullDummies], rfl⟩
  case pha | php => exact ⟨_, _, (next_inj h rfl).trans (push_dummyFetch_eq s _), follows_push _⟩
  case pla => exact ⟨_, _, (next_inj h rfl).trans (opPla_eq s), follows_pull⟩
  case plp => exact ⟨_, _, (next_inj h rfl).trans (opPlp_eq s), follows_pull⟩
  case jam op =>
    exact ⟨[], fun c => { c with pc := c.pc - 1, jammed := true }, (next_inj h rfl).trans (by rw [perform_nil]),
      by simp [WritesOnly], rfl⟩

/-! What the statements say of an instruction, said of its pattern. -/

/-- An instruction writes only where its pattern writes. -/
theorem exec_wroteOnly (h : exec i s = .next t) : WroteOnly ((accessPattern i).writes s) s t := by
  obtain ⟨l, f, rfl, hl⟩ := exec_follows h
  exact perform_wroteOnly hl.writes s f

/-- The instructions that store are those whose pattern writes somewhere. -/
theorem storesToMemory_eq (i : Instr) (s : State) : storesToMemory i = !((accessPattern i).writes s).isEmpty := by
  cases i <;> rfl

/-- A store or read-modify-write form writes to the address of its operand: by the nine mnemonics and their formats. -/
theorem writes_of_storeForm {form : Mode → Option (Byte × Instr)} {m : Mode} {op : Byte} (hf : form ∈ storeForms)
    (h : form m = some (op, i)) : (accessPattern i).writes s = [effectiveAddress m s] := by
  simp only [storeForms, List.mem_cons, List.not_mem_nil, or_false] at hf
  rcases hf with rfl | rfl | rfl | rfl | rfl | rfl | rfl | rfl | rfl <;> cases m <;> cases h <;> rfl

theorem instrRow_eq {op : Byte} {rest : List Byte} (h : encode i = op :: rest) : instrRow i = opcodeRow op := by
  rw [instrRow, h]
  rfl

/-- The base cycles of an instruction, looked up among numbers. -/
theorem instrRow_cycles {op : Byte} {rest : List Byte} (h : encode i = op :: rest) :
    (instrRow i).elim 1 Row.cycles =
      ((cycleNumbers.find? fun x => x.1 == op.toNat).map Prod.snd).getD 1 := by
  rw [instrRow_eq h, rowCycles_eq]

/-- The base count of a row is the opcode fetch and the accesses the pattern always makes; a jam is its opcode fetch
(40_step_and_addressing.md R151). -/
theorem rowCycles_eq_base (h : i.wellFormed = true) :
    (instrRow i).elim 1 Row.cycles = (accessPattern i).base + 1 := by
  cases i
  case jam op =>
    have ho : opcodeRow op = none := opcodeRow_eq_none.2 (List.contains_iff_mem.1 h)
    rw [instrRow_eq rfl, ho]
    rfl
  all_goals exact (instrRow_cycles rfl).trans rfl

theorem extraCost_of_branch {cond : Bool} {r : Byte} (h : branchTaken i s.cpu.p = some (cond, r)) :
    extraCost i s = if cond then (if hiByte (branchTarget r s) = hiByte (s.cpu.pc + 1) then 1 else 2) else 0 := by
  unfold extraCost
  rw [h]
  cases cond <;> rfl

theorem extraCost_eq_extra (i : Instr) (s : State) : extraCost i s = (accessPattern i).extra s := by
  cases i
  case bcc | bcs | beq | bne | bmi | bpl | bvc | bvs => exact extraCost_of_branch rfl
  all_goals rfl

theorem documentedCost_eq (h : i.wellFormed = true) :
    documentedCost i s = (accessPattern i).base + (accessPattern i).extra s + 1 := by
  rw [documentedCost, rowCycles_eq_base h, extraCost_eq_extra, Nat.add_right_comm]

/-- Settles O31: the pattern of an instruction that stores nothing has no write. -/
theorem nonStoringInstructionsLeaveMemory : Obligations.NonStoringInstructionsLeaveMemory := by
  unfold Obligations.NonStoringInstructionsLeaveMemory
  intro i s t hs h
  rw [storesToMemory_eq i s, Bool.not_eq_false', List.isEmpty_iff] at hs
  exact hs ▸ exec_wroteOnly h

/-- Settles O32, pattern by pattern. -/
theorem storingInstructionsWriteOnlyTheirBytes : Obligations.StoringInstructionsWriteOnlyTheirBytes := by
  unfold Obligations.StoringInstructionsWriteOnlyTheirBytes
  intro i s t h
  have hw := exec_wroteOnly h
  refine ⟨?_, ?_, ?_, ?_⟩
  · rintro m op ⟨form, hf, hm⟩
    rw [resolve_eq]
    exact writes_of_storeForm hf hm ▸ hw
  · rintro (rfl | rfl) <;> exact hw
  · rintro ⟨w, rfl⟩
    exact hw
  · rintro rfl
    exact hw

/-- Settles O34: the cost in the closed form is one more than the accesses of the pattern. -/
theorem documentedCostIsTheAccessCount : Obligations.DocumentedCostIsTheAccessCount := by
  unfold Obligations.DocumentedCostIsTheAccessCount
  intro i s t hw h
  obtain ⟨l, f, rfl, hl⟩ := exec_follows h
  rw [documentedCost_eq hw, ← hl.length, mapCpu_cycles, perform_cycles, mapCpu_trace, perform_trace, List.length_append,
    accesses_length]
  exact ⟨rfl, rfl⟩

end Sys2Proof.Machine

/-! PROOFS (41_load_store_transfer.md R170 to R181, 43_shift_incdec.md R216 to R219). Loads, stores, transfers and the
counts of the index registers. -/

namespace Sys2Proof.Machine

variable {s : State}

/-- Each form of a table encodes to its opcode and its operand bytes, and runs this operation on its operand. -/
abbrev FormsRun {α : Type} (bytes : α → List Byte) (form : α → Option (Byte × Instr)) (run : α → State → State) :
    Prop :=
  ∀ {x : α} {op : Byte} {i : Instr}, form x = some (op, i) →
    ∀ s : State, encode i = op :: bytes x ∧ exec i s = .next (run x s)

/-! The loads. -/

theorem ldaForm_runs : FormsRun Source.bytes ldaForm opLda := by
  intro src op i h s
  cases src with
  | imm v => cases h; exact ⟨rfl, rfl⟩
  | mem m => cases m <;> cases h <;> exact ⟨rfl, rfl⟩

theorem ldxForm_runs : FormsRun Source.bytes ldxForm opLdx := by
  intro src op i h s
  cases src with
  | imm v => cases h; exact ⟨rfl, rfl⟩
  | mem m => cases m <;> cases h <;> exact ⟨rfl, rfl⟩

theorem ldyForm_runs : FormsRun Source.bytes ldyForm opLdy := by
  intro src op i h s
  cases src with
  | imm v => cases h; exact ⟨rfl, rfl⟩
  | mem m => cases m <;> cases h <;> exact ⟨rfl, rfl⟩

theorem opLda_afterRead (s : State) (src : Source) :
    opLda src s = s.afterRead src fun v c => { c with a := v, p := withZN v c.p } := by
  simp only [opLda_eq, State.afterRead, withZN_eq]

theorem opLdx_afterRead (s : State) (src : Source) :
    opLdx src s = s.afterRead src fun v c => { c with x := v, p := withZN v c.p } := by
  simp only [opLdx_eq, State.afterRead, withZN_eq]

theorem opLdy_afterRead (s : State) (src : Source) :
    opLdy src s = s.afterRead src fun v c => { c with y := v, p := withZN v c.p } := by
  simp only [opLdy_eq, State.afterRead, withZN_eq]

/-- Settles O6: each form runs its mnemonic's load. -/
theorem loadsSetARegister : Obligations.LoadsSetARegister := by
  unfold Obligations.LoadsSetARegister
  intro s src op i
  rw [← opLda_afterRead, ← opLdx_afterRead, ← opLdy_afterRead]
  exact ⟨fun h => ldaForm_runs h s, fun h => ldxForm_runs h s, fun h => ldyForm_runs h s⟩

/-! The stores. -/

theorem staForm_runs : FormsRun Mode.bytes staForm opSta := by
  intro m op i h s
  cases m <;> cases h <;> exact ⟨rfl, rfl⟩

theorem stxForm_runs : FormsRun Mode.bytes stxForm opStx := by
  intro m op i h s
  cases m <;> cases h <;> exact ⟨rfl, rfl⟩

theorem styForm_runs : FormsRun Mode.bytes styForm opSty := by
  intro m op i h s
  cases m <;> cases h <;> exact ⟨rfl, rfl⟩

/-- The write is the last access of its class (40_step_and_addressing.md R146), so RAM there holds its byte. -/
theorem peek_afterStore {m : Mode} (v : Byte) (h : s.bus.target (effectiveAddress m s) = .ram) :
    peek (s.afterStore m v).bus (effectiveAddress m s) = v := by
  have ht : (s.bus.after (storeRequests m s)).target (effectiveAddress m s) = .ram := by rwa [after_target]
  have hb : (s.afterStore m v).bus = busWrite (s.bus.after (storeRequests m s)) (effectiveAddress m s) v :=
    (after_after ..).symm
  rw [hb, peek_busWrite_of_ram v ht (by rw [ht]; decide), if_pos rfl]

/-- A form that runs `storeOperand` on a register does what 41_load_store_transfer.md R173 to R175 say of it. -/
theorem stored_of_formsRun {form : Mode → Option (Byte × Instr)} (register : ProcessorState → Byte)
    (hr : FormsRun Mode.bytes form fun m s => storeOperand m (register s.cpu) s) {m : Mode} {op : Byte} {i : Instr}
    (h : form m = some (op, i)) :
    encode i = op :: m.bytes ∧ exec i s = .next (s.afterStore m (register s.cpu)) ∧
      (s.bus.target (effectiveAddress m s) = .ram →
        peek (s.afterStore m (register s.cpu)).bus (effectiveAddress m s) = register s.cpu) := by
  obtain ⟨he, hx⟩ := hr h s
  exact ⟨he, hx.trans (congrArg _ (storeOperand_eq s m _)), peek_afterStore _⟩

/-- Settles O7: each form runs `storeOperand` on its mnemonic's register. -/
theorem storesWriteARegister : Obligations.StoresWriteARegister := by
  unfold Obligations.StoresWriteARegister
  intro s m op i holds
  exact ⟨stored_of_formsRun (·.a) staForm_runs, stored_of_formsRun (·.x) stxForm_runs,
    stored_of_formsRun (·.y) styForm_runs⟩

/-! The one-byte instructions on registers. -/

theorem implied_afterImplied (s : State) (f : ProcessorState → ProcessorState) :
    implied f s = s.afterImplied (f s.cpu) := implied_eq s f

/-- An index register counted up, modulo 256. -/
theorem ofNat_toNat_succ (v : Byte) : BitVec.ofNat 8 (v.toNat + 1) = v + 1 := by
  rw [BitVec.ofNat_add, BitVec.ofNat_toNat, BitVec.setWidth_eq]
  rfl

/-- An index register counted down, modulo 256: 255 is -1. -/
theorem ofNat_toNat_pred (v : Byte) : BitVec.ofNat 8 (v.toNat + 255) = v - 1 := by
  rw [BitVec.ofNat_add, BitVec.ofNat_toNat, BitVec.setWidth_eq, BitVec.sub_eq_add_neg]
  rfl

/-- Settles O8: each of the ten runs `implied` on its own change of the registers. -/
theorem transfersAndIndexCounts : Obligations.TransfersAndIndexCounts := by
  unfold Obligations.TransfersAndIndexCounts
  intro s op i c up down h
  simp only [up, down, ofNat_toNat_succ, ofNat_toNat_pred, withZN_eq, List.mem_cons, List.not_mem_nil, or_false,
    Prod.mk.injEq] at h
  rcases h with ⟨rfl, rfl, rfl⟩ | ⟨rfl, rfl, rfl⟩ | ⟨rfl, rfl, rfl⟩ | ⟨rfl, rfl, rfl⟩ | ⟨rfl, rfl, rfl⟩ |
      ⟨rfl, rfl, rfl⟩ | ⟨rfl, rfl, rfl⟩ | ⟨rfl, rfl, rfl⟩ | ⟨rfl, rfl, rfl⟩ | ⟨rfl, rfl, rfl⟩ <;>
    exact ⟨rfl, congrArg _ (implied_afterImplied s _)⟩

end Sys2Proof.Machine

/-! PROOFS (42_arithmetic_logic.md R190 to R201). Arithmetic, logic, comparison, bit test. -/

namespace Sys2Proof.Machine

variable {s : State}

/-- The forms of each mnemonic of 42_arithmetic_logic.md run its shared operation. -/
theorem arithForm_runs {form : Source → Option (Byte × Instr)} {run : Source → State → State}
    (hf : (form, run) ∈ [(adcForm, opAdc), (sbcForm, opSbc), (andForm, opAnd), (oraForm, opOra), (eorForm, opEor),
      (cmpForm, opCmp), (cpxForm, opCpx), (cpyForm, opCpy), (bitForm, opBit)]) :
    FormsRun Source.bytes form run := by
  intro src op i h s
  simp only [List.mem_cons, List.not_mem_nil, or_false, Prod.mk.injEq] at hf
  rcases hf with ⟨rfl, rfl⟩ | ⟨rfl, rfl⟩ | ⟨rfl, rfl⟩ | ⟨rfl, rfl⟩ | ⟨rfl, rfl⟩ | ⟨rfl, rfl⟩ | ⟨rfl, rfl⟩ |
      ⟨rfl, rfl⟩ | ⟨rfl, rfl⟩ <;>
    cases src with
    | imm v => cases h <;> exact ⟨rfl, rfl⟩
    | mem m => cases m <;> cases h <;> exact ⟨rfl, rfl⟩

/-- A form whose operation has this effect does what the statements of the family say of it. -/
theorem afterRead_of_formsRun {form : Source → Option (Byte × Instr)} {run : Source → State → State} {src : Source}
    {f : Byte → ProcessorState → ProcessorState} {op : Byte} {i : Instr} (hr : FormsRun Source.bytes form run)
    (he : run src s = s.afterRead src f) (h : form src = some (op, i)) :
    encode i = op :: src.bytes ∧ exec i s = .next (s.afterRead src f) := by
  rw [← he]
  exact hr h s

/-! Logic, comparison and the bit test. -/

/-- Settles O12: each form runs its mnemonic's operation. -/
theorem logicInstructionsCombineBits : Obligations.LogicInstructionsCombineBits := by
  unfold Obligations.LogicInstructionsCombineBits
  intro s src op i
  simp only [withZN_eq]
  exact ⟨afterRead_of_formsRun (arithForm_runs (by simp)) (opAnd_eq s src),
    afterRead_of_formsRun (arithForm_runs (by simp)) (opOra_eq s src),
    afterRead_of_formsRun (arithForm_runs (by simp)) (opEor_eq s src)⟩

/-- The flags of a comparison in numbers (42_arithmetic_logic.md R198). -/
theorem compareFlags_eq (reg m : Byte) (p : Flags) :
    compareFlags reg m p = { p with
      c := decide (m.toNat ≤ reg.toNat)
      z := decide (reg.toNat = m.toNat)
      n := decide (128 ≤ (reg.toNat + 256 - m.toNat) % 256) } := by
  have hz : (reg == m) = decide (reg.toNat = m.toNat) := by
    rw [Bool.eq_iff_iff, beq_iff_eq, decide_eq_true_eq, BitVec.toNat_inj]
  have hd : (reg - m).toNat = (reg.toNat + 256 - m.toNat) % 256 := by
    have := m.isLt
    rw [BitVec.toNat_sub]
    omega
  simp only [compareFlags, hz, bit_seven, hd]

/-- Settles O13: each form compares its mnemonic's register with the operand. -/
theorem comparesSetCZN : Obligations.ComparesSetCZN := by
  unfold Obligations.ComparesSetCZN
  intro s src op i
  simp only [← compareFlags_eq]
  exact ⟨afterRead_of_formsRun (arithForm_runs (by simp)) (opCmp_eq s src),
    afterRead_of_formsRun (arithForm_runs (by simp)) (opCpx_eq s src),
    afterRead_of_formsRun (arithForm_runs (by simp)) (opCpy_eq s src)⟩

/-- The flags of `BIT` in numbers (42_arithmetic_logic.md R201). -/
theorem bitFlags_eq (a m : Byte) (p : Flags) :
    bitFlags a m p = { p with
      z := decide ((a &&& m).toNat = 0)
      n := decide (128 ≤ m.toNat)
      v := decide (64 ≤ m.toNat % 128) } := by
  simp only [bitFlags, beq_zero, bit_seven, bit_six]

/-- Settles O14: both forms test the operand with `A`. -/
theorem bitTestsMemory : Obligations.BitTestsMemory := by
  unfold Obligations.BitTestsMemory
  intro s src op i
  simp only [← bitFlags_eq]
  exact afterRead_of_formsRun (arithForm_runs (by simp)) (opBit_eq s src)

/-! Addition. -/

/-- The signed sum overflows when it has neither term's sign (42_arithmetic_logic.md R191). -/
theorem signed_add_overflow (a m : Byte) (c : Bool) :
    ¬ (-128 ≤ a.toInt + m.toInt + c.toNat ∧ a.toInt + m.toInt + c.toNat ≤ 127) ↔
      a.toNat / 128 % 2 ≠ (a.toNat + m.toNat + c.toNat) / 128 % 2 ∧
      m.toNat / 128 % 2 ≠ (a.toNat + m.toNat + c.toNat) / 128 % 2 := by
  have ha := a.isLt
  have hm := m.isLt
  have hc := c.toNat_le
  rw [BitVec.toInt_eq_toNat_cond, BitVec.toInt_eq_toNat_cond]
  split <;> split <;> omega

/-- Binary `ADC` in numbers (42_arithmetic_logic.md R191). -/
theorem adcBinary_eq (a m : Byte) (p : Flags) :
    adcBinary a m p = (BitVec.ofNat 8 (a.toNat + m.toNat + p.c.toNat),
      { p with
        n := decide (128 ≤ (a.toNat + m.toNat + p.c.toNat) % 256)
        v := decide (¬ (-128 ≤ a.toInt + m.toInt + p.c.toNat ∧ a.toInt + m.toInt + p.c.toNat ≤ 127))
        z := decide ((a.toNat + m.toNat + p.c.toNat) % 256 = 0)
        c := decide (256 ≤ a.toNat + m.toNat + p.c.toNat) }) := by
  simp only [adcBinary, setZN, bit_seven, beq_zero, BitVec.toNat_ofNat, xor_signs, signed_add_overflow]
  rfl

/-- The value before the high correction in numbers (42_arithmetic_logic.md R192 `t`). -/
def adcDecimalMid (a m c : Nat) : Nat :=
  let low := a % 16 + m % 16 + c
  a / 16 * 16 + m / 16 * 16 + if 10 ≤ low then (low + 6) % 16 + 16 else low

/-- The corrected value in numbers (42_arithmetic_logic.md R192 `u`). -/
def adcDecimalSum (a m c : Nat) : Nat :=
  if 160 ≤ adcDecimalMid a m c then adcDecimalMid a m c + 96 else adcDecimalMid a m c

/-- The model's `t`, with its masks, is `adcDecimalMid`. -/
theorem adcDecimalMid_eq (a m : Byte) (c : Bool) :
    (a.toNat &&& 0xF0) + (m.toNat &&& 0xF0) + adcDecimalLow a m c = adcDecimalMid a.toNat m.toNat c.toNat := by
  simp only [adcDecimalLow, and_low, and_high, adcDecimalMid]

/-- Decimal `ADC` in numbers (42_arithmetic_logic.md R192). -/
theorem adcDecimal_eq (a m : Byte) (p : Flags) :
    adcDecimal a m p = (BitVec.ofNat 8 (adcDecimalSum a.toNat m.toNat p.c.toNat),
      { p with
        n := decide (128 ≤ adcDecimalMid a.toNat m.toNat p.c.toNat % 256)
        v := decide (a.toNat / 128 = m.toNat / 128 ∧
          adcDecimalMid a.toNat m.toNat p.c.toNat / 128 % 2 ≠ a.toNat / 128)
        z := decide ((a.toNat + m.toNat + p.c.toNat) % 256 = 0)
        c := decide (256 ≤ adcDecimalSum a.toNat m.toNat p.c.toNat) }) := by
  have ha := a.isLt
  have hm := m.isLt
  have hn (t : Nat) : t / 128 % 2 = 1 ↔ 128 ≤ t % 256 := by omega
  have hv (t : Nat) : a.toNat / 128 % 2 ≠ t / 128 % 2 ∧ m.toNat / 128 % 2 ≠ t / 128 % 2 ↔
      a.toNat / 128 = m.toNat / 128 ∧ t / 128 % 2 ≠ a.toNat / 128 := by omega
  simp only [adcDecimal, adcDecimalMid_eq, and_byte, testBit_seven, xor_signs, hn, hv]
  rfl

/-- Settles O9: each form runs `adcResult`, which is one of the two computations in numbers as `P.D` says. -/
theorem adcAddsWithCarry : Obligations.AdcAddsWithCarry := by
  unfold Obligations.AdcAddsWithCarry
  intro s src op i h a m c signed low al t u
  obtain ⟨he, hx⟩ := arithForm_runs (run := opAdc) (by simp) h s
  rw [hx, opAdc_eq]
  refine ⟨he, fun hd => congrArg _ (mapCpu_congr ?_), fun hd => congrArg _ (mapCpu_congr ?_)⟩
  · simp only [perform_cpu, adcResult, hd, adcBinary_eq]
    rfl
  · simp only [perform_cpu, adcResult, hd, adcDecimal_eq]
    rfl

/-! Subtraction. -/

/-- The result byte of a difference, as a number. -/
theorem toNat_ofInt_byte (d : Int) : ((BitVec.ofInt 8 d).toNat : Int) = d % 256 := by
  rw [BitVec.toNat_ofInt]
  omega

/-- The signed difference overflows when `A` has the sign neither of the operand nor of the result
(42_arithmetic_logic.md R193). -/
theorem signed_sub_overflow (a m : Byte) (c : Bool) :
    ((a ^^^ m) &&& (a ^^^ BitVec.ofInt 8 (sbcDifference a m c)) &&& 0x80 != 0) =
      decide (¬ (-128 ≤ a.toInt - m.toInt - (1 - c.toNat) ∧ a.toInt - m.toInt - (1 - c.toNat) ≤ 127)) := by
  have ha := a.isLt
  have hm := m.isLt
  have hc := c.toNat_le
  have hr := toNat_ofInt_byte (sbcDifference a m c)
  generalize BitVec.ofInt 8 (sbcDifference a m c) = r at *
  have hx : ((a ^^^ m) &&& (a ^^^ r) &&& 0x80 != 0) =
      ((m.toNat ^^^ a.toNat) &&& (r.toNat ^^^ a.toNat) &&& 0x80 != 0) := by
    rw [Bool.eq_iff_iff, bne_iff_ne, bne_iff_ne, ne_eq, ne_eq, ← BitVec.toNat_inj, BitVec.xor_comm a, BitVec.xor_comm a]
    rfl
  rw [sbcDifference] at hr
  rw [hx, xor_signs, decide_eq_decide, BitVec.toInt_eq_toNat_cond, BitVec.toInt_eq_toNat_cond]
  split <;> split <;> omega

/-- `SBC` in numbers, both modes (42_arithmetic_logic.md R193). -/
theorem sbcResult_eq (a m : Byte) (p : Flags) :
    sbcResult a m p = (if p.d then sbcDecimal a m p.c else BitVec.ofInt 8 (sbcDifference a m p.c),
      { p with
        n := decide (128 ≤ sbcDifference a m p.c % 256)
        v := decide (¬ (-128 ≤ a.toInt - m.toInt - (1 - p.c.toNat) ∧ a.toInt - m.toInt - (1 - p.c.toNat) ≤ 127))
        z := decide (sbcDifference a m p.c % 256 = 0)
        c := decide (0 ≤ sbcDifference a m p.c) }) := by
  have hn (r : Byte) : 128 ≤ r.toNat ↔ 128 ≤ (r.toNat : Int) := by omega
  have hz (r : Byte) : r.toNat = 0 ↔ (r.toNat : Int) = 0 := by omega
  simp only [sbcResult, setZN, signed_sub_overflow, bit_seven, beq_zero, hn, hz, toNat_ofInt_byte]

/-- `A - m - (1 - C)` is `A + (m ^ 0xFF) + C` less 256 (42_arithmetic_logic.md R193). -/
theorem sbcResult_eq_adcResult_complement (a m : Byte) {p : Flags} (hd : p.d = false) :
    sbcResult a m p = adcResult a (m ^^^ 0xFF) p := by
  have hm := m.isLt
  have hnot : m ^^^ 0xFF = ~~~m := BitVec.xor_allOnes
  have hs : a.toNat + (~~~m).toNat + p.c.toNat = sbcDifference a m p.c + 256 := by
    rw [BitVec.toNat_not, sbcDifference]
    omega
  have hi : (~~~m).toInt = -1 - m.toInt := by
    rw [BitVec.toInt_eq_toNat_cond, BitVec.toInt_eq_toNat_cond, BitVec.toNat_not]
    split <;> split <;> omega
  have hr : BitVec.ofInt 8 (sbcDifference a m p.c) = BitVec.ofNat 8 (a.toNat + (~~~m).toNat + p.c.toNat) := by
    apply BitVec.eq_of_toNat_eq
    have := toNat_ofInt_byte (sbcDifference a m p.c)
    rw [BitVec.toNat_ofNat]
    omega
  simp only [sbcResult_eq, adcResult, hd, hnot, adcBinary_eq, hi, hr, Prod.mk.injEq, Flags.mk.injEq,
    decide_eq_decide, Bool.false_eq_true, if_false, true_and]
  refine ⟨?_, ?_, ?_, ?_⟩ <;> omega

/-- Settles O10: each form runs `sbcResult`, whose flags do not depend on `P.D`. -/
theorem sbcSubtractsWithBorrow : Obligations.SbcSubtractsWithBorrow := by
  unfold Obligations.SbcSubtractsWithBorrow
  intro s src op i h a m borrow d signed low al t
  obtain ⟨he, hx⟩ := arithForm_runs (run := opSbc) (by simp) h s
  rw [hx, opSbc_eq]
  refine ⟨he, congrArg _ (mapCpu_congr ?_), fun hd => congrArg _ (mapCpu_congr ?_)⟩
  · simp only [perform_cpu, sbcResult_eq, sbcDecimal, and_low, and_high]
    rfl
  · simp only [perform_cpu, sbcResult_eq_adcResult_complement _ _ hd]

/-! Decimal mode on valid decimal operands. -/

/-- A byte made of the last two decimal digits of a number. -/
theorem validBcd_of_digits {r : Byte} {n carry tens units : Nat} (ht : tens ≤ 9) (hu : units ≤ 9)
    (hr : r.toNat = tens * 16 + units) (hn : n = carry * 100 + tens * 10 + units) :
    ValidBcd r ∧ bcdValue r = n % 100 := by
  simp only [ValidBcd, bcdValue, hr]
  omega

section Bcd

variable {a m : Byte} (ha : ValidBcd a) (hm : ValidBcd m)
include ha hm

/-- The corrected sum holds the digits of the decimal sum, its carry above them: each correction takes 10 from a digit
that exceeds 9 and adds 1 to the next. -/
theorem adcDecimalSum_digits (c : Bool) : ∃ carry tens units, tens ≤ 9 ∧ units ≤ 9 ∧
    adcDecimalSum a.toNat m.toNat c.toNat = carry * 256 + tens * 16 + units ∧
    bcdValue a + bcdValue m + c.toNat = carry * 100 + tens * 10 + units := by
  have hc := c.toNat_le
  obtain ⟨ha1, ha0⟩ := ha
  obtain ⟨hm1, hm0⟩ := hm
  let tens := a.toNat / 16 + m.toNat / 16
  let units := a.toNat % 16 + m.toNat % 16 + c.toNat
  simp only [adcDecimalSum, adcDecimalMid, bcdValue]
  split <;> split
  · exact ⟨1, tens + 1 - 10, units - 10, by omega⟩
  · exact ⟨0, tens + 1, units - 10, by omega⟩
  · exact ⟨1, tens - 10, units, by omega⟩
  · exact ⟨0, tens, units, by omega⟩

/-- Decimal `ADC` is exact on valid decimal operands (42_arithmetic_logic.md R192). -/
theorem adcDecimal_bcd (p : Flags) :
    ValidBcd (adcDecimal a m p).1 ∧
      bcdValue (adcDecimal a m p).1 = (bcdValue a + bcdValue m + p.c.toNat) % 100 ∧
      (adcDecimal a m p).2.c = decide (100 ≤ bcdValue a + bcdValue m + p.c.toNat) := by
  obtain ⟨carry, tens, units, ht, hu, hs, hn⟩ := adcDecimalSum_digits ha hm p.c
  rw [adcDecimal_eq, ← and_assoc]
  refine ⟨validBcd_of_digits ht hu ?_ hn, decide_eq_decide.2 (by omega)⟩
  rw [hs, BitVec.toNat_ofNat]
  omega

/-- The corrected difference holds the digits of the decimal difference: each correction adds 10 to a digit that is
negative and takes 1 from the next. -/
theorem sbcDecimal_digits (c : Bool) : ∃ carry tens units, tens ≤ 9 ∧ units ≤ 9 ∧
    (sbcDecimal a m c).toNat = tens * 16 + units ∧
    bcdValue a + 100 - bcdValue m - (1 - c.toNat) = carry * 100 + tens * 10 + units := by
  have hc := c.toNat_le
  obtain ⟨ha1, ha0⟩ := ha
  obtain ⟨hm1, hm0⟩ := hm
  let tens := a.toNat / 16 + 10 - m.toNat / 16
  let units := a.toNat % 16 + 10 - m.toNat % 16 - (1 - c.toNat)
  simp only [← Int.natCast_inj, sbcDecimal, toNat_ofInt_byte, and_low, and_high, bcdValue]
  split <;> split
  · exact ⟨0, tens - 1, units, by omega⟩
  · exact ⟨1, tens - 11, units, by omega⟩
  · exact ⟨0, tens, units - 10, by omega⟩
  · exact ⟨1, tens - 10, units - 10, by omega⟩

/-- Decimal `SBC` is exact on valid decimal operands (42_arithmetic_logic.md R194). -/
theorem sbcDecimal_bcd (c : Bool) :
    ValidBcd (sbcDecimal a m c) ∧
      bcdValue (sbcDecimal a m c) = (bcdValue a + 100 - bcdValue m - (1 - c.toNat)) % 100 := by
  obtain ⟨carry, tens, units, ht, hu, hs, hn⟩ := sbcDecimal_digits ha hm c
  exact validBcd_of_digits ht hu hs hn

/-- Bytes of decimal digits are ordered as their decimal values, also with a borrow. -/
theorem sbcDifference_nonneg_bcd (c : Bool) :
    0 ≤ sbcDifference a m c ↔ bcdValue m + (1 - c.toNat) ≤ bcdValue a := by
  have hc := c.toNat_le
  obtain ⟨ha1, ha0⟩ := ha
  obtain ⟨hm1, hm0⟩ := hm
  simp only [sbcDifference, bcdValue]
  omega

end Bcd

/-- Settles O11, from the digits of the two corrected values. -/
theorem decimalArithmeticIsExactOnBcd : Obligations.DecimalArithmeticIsExactOnBcd := by
  unfold Obligations.DecimalArithmeticIsExactOnBcd
  intro a m p hd ha hm
  obtain ⟨hv, hb⟩ := sbcDecimal_bcd ha hm p.c
  simp only [adcResult, sbcResult_eq, hd, if_true]
  exact ⟨adcDecimal_bcd ha hm p, hv, hb, decide_eq_decide.2 (sbcDifference_nonneg_bcd ha hm p.c)⟩

end Sys2Proof.Machine

/-! PROOFS (43_shift_incdec.md R210 to R215). Shifts, rotations and counts of a byte of memory or of the accumulator. -/

namespace Sys2Proof.Machine

variable {s : State}

/-- The memory forms of each mnemonic of 43_shift_incdec.md run `modifyOperand` with its computation. -/
theorem modifyForm_runs {form : Mode → Option (Byte × Instr)} {f : Byte → Flags → Byte × Flags}
    (hf : (form, f) ∈ [(aslForm, aslResult), (lsrForm, lsrResult), (rolForm, rolResult), (rorForm, rorResult),
      (incForm, incResult), (decForm, decResult)]) :
    FormsRun Mode.bytes form fun m => modifyOperand m f := by
  intro m op i h s
  simp only [List.mem_cons, List.not_mem_nil, or_false, Prod.mk.injEq] at hf
  rcases hf with ⟨rfl, rfl⟩ | ⟨rfl, rfl⟩ | ⟨rfl, rfl⟩ | ⟨rfl, rfl⟩ | ⟨rfl, rfl⟩ | ⟨rfl, rfl⟩ <;>
    cases m <;> cases h <;> exact ⟨rfl, rfl⟩

/-- A memory form whose computation gives this byte and these flags does what the statements of the family say of it. -/
theorem afterModify_of_formsRun {form : Mode → Option (Byte × Instr)} {f : Byte → Flags → Byte × Flags} {m : Mode}
    {r : Byte} {p : Flags} {op : Byte} {i : Instr} (hr : FormsRun Mode.bytes form fun m => modifyOperand m f)
    (hv : f (modifiedByte m s) s.cpu.p = (r, p)) (h : form m = some (op, i)) :
    encode i = op :: m.bytes ∧ exec i s = .next (s.afterModify m r p) := by
  obtain ⟨he, hx⟩ := hr h s
  simp only [modifyOperand_eq, hv] at hx
  exact ⟨he, hx⟩

/-- An accumulator form changes `A` and the flags as its computation on `A` says (40_step_and_addressing.md R131). -/
theorem modifyAccumulator_afterImplied (s : State) (f : Byte → Flags → Byte × Flags) :
    modifyAccumulator f s =
      s.afterImplied { s.cpu with a := (f s.cpu.a s.cpu.p).1, p := (f s.cpu.a s.cpu.p).2 } :=
  modifyAccumulator_eq s f

/-- `Z` and `N` of a number modulo 256. -/
theorem setZN_ofNat (n : Nat) (p : Flags) :
    setZN (BitVec.ofNat 8 n) p = { p with z := decide (n % 256 = 0), n := decide (128 ≤ n % 256) } := by
  rw [← withZN_eq]
  rfl

/-- The nine-bit rotation to the left, as a number: the carry is the new bit 0 (43_shift_incdec.md R212). -/
theorem shiftLeft_or_carry (v : Byte) (c : Bool) :
    v <<< 1 ||| (if c then 0x01 else 0x00) = BitVec.ofNat 8 (v.toNat * 2 + c.toNat) := by
  have hv : v <<< 1 = BitVec.ofNat 8 (v.toNat <<< 1) := rfl
  have hc : (if c then 0x01 else 0x00 : Byte) = BitVec.ofNat 8 c.toNat := by cases c <;> rfl
  rw [hv, hc, ← BitVec.ofNat_or, ← Nat.shiftLeft_add_eq_or_of_lt (b := c.toNat) c.toNat_lt, Nat.shiftLeft_eq]

/-- The nine-bit rotation to the right, as a number: the carry is the new bit 7 (43_shift_incdec.md R213). -/
theorem shiftRight_or_carry (v : Byte) (c : Bool) :
    v >>> 1 ||| (if c then 0x80 else 0x00) = BitVec.ofNat 8 (v.toNat / 2 + 128 * c.toNat) := by
  have hv : v >>> 1 = BitVec.ofNat 8 (v.toNat / 2) := by bv_omega
  have hc : (if c then 0x80 else 0x00 : Byte) = BitVec.ofNat 8 (2 ^ 7 * c.toNat) := by cases c <;> rfl
  have hlt : v.toNat / 2 < 2 ^ 7 := Nat.div_lt_of_lt_mul v.isLt
  rw [hv, hc, ← BitVec.ofNat_or, Nat.or_comm, ← Nat.two_pow_add_eq_or_of_lt hlt, Nat.add_comm]

/-- `ROL` in numbers (43_shift_incdec.md R212). -/
theorem rolResult_eq (v : Byte) (p : Flags) :
    rolResult v p = (BitVec.ofNat 8 (v.toNat * 2 + p.c.toNat), { p with
      c := decide (128 ≤ v.toNat)
      z := decide (v.toNat % 128 = 0 ∧ p.c.toNat = 0)
      n := decide (64 ≤ v.toNat % 128) }) := by
  have hc := p.c.toNat_le
  have hz : (v.toNat * 2 + p.c.toNat) % 256 = 0 ↔ v.toNat % 128 = 0 ∧ p.c.toNat = 0 := by omega
  have hn : 128 ≤ (v.toNat * 2 + p.c.toNat) % 256 ↔ 64 ≤ v.toNat % 128 := by omega
  simp only [rolResult, shiftLeft_or_carry, setZN_ofNat, bit_seven, hz, hn]

/-- `ROR` in numbers (43_shift_incdec.md R213): the carry becomes the sign. -/
theorem rorResult_eq (v : Byte) (p : Flags) :
    rorResult v p = (BitVec.ofNat 8 (v.toNat / 2 + 128 * p.c.toNat), { p with
      c := decide (v.toNat % 2 = 1)
      z := decide (v.toNat < 2 ∧ p.c.toNat = 0)
      n := p.c }) := by
  have hv := v.isLt
  have hc := p.c.toNat_le
  have hz : (v.toNat / 2 + 128 * p.c.toNat) % 256 = 0 ↔ v.toNat < 2 ∧ p.c.toNat = 0 := by omega
  have hn : decide (128 ≤ (v.toNat / 2 + 128 * p.c.toNat) % 256) = p.c := by
    rw [Bool.eq_iff_iff, decide_eq_true_eq, ← Bool.toNat_eq_one]
    omega
  simp only [rorResult, shiftRight_or_carry, setZN_ofNat, bit_zero, hz, hn]

/-- A shift to the left is the rotation with a clear carry. -/
theorem aslResult_eq (v : Byte) (p : Flags) :
    aslResult v p = (BitVec.ofNat 8 (v.toNat * 2), { p with
      c := decide (128 ≤ v.toNat)
      z := decide (v.toNat % 128 = 0)
      n := decide (64 ≤ v.toNat % 128) }) := by
  have h : aslResult v p = rolResult v { p with c := false } := by simp [aslResult, rolResult]
  simp [h, rolResult_eq]

/-- A shift to the right is the rotation with a clear carry. -/
theorem lsrResult_eq (v : Byte) (p : Flags) :
    lsrResult v p = (BitVec.ofNat 8 (v.toNat / 2), { p with
      c := decide (v.toNat % 2 = 1)
      z := decide (v.toNat < 2)
      n := false }) := by
  have h : lsrResult v p = rorResult v { p with c := false } := by simp [lsrResult, rorResult]
  simp [h, rorResult_eq]

theorem incResult_eq (v : Byte) (p : Flags) :
    incResult v p = (BitVec.ofNat 8 (v.toNat + 1), withZN (BitVec.ofNat 8 (v.toNat + 1)) p) := by
  rw [ofNat_toNat_succ, withZN_eq]
  rfl

theorem decResult_eq (v : Byte) (p : Flags) :
    decResult v p = (BitVec.ofNat 8 (v.toNat + 255), withZN (BitVec.ofNat 8 (v.toNat + 255)) p) := by
  rw [ofNat_toNat_pred, withZN_eq]
  rfl

/-- Settles O15: each memory form runs `modifyOperand`, each accumulator form `modifyAccumulator`, with its mnemonic's
computation. -/
theorem shiftsAndCounts : Obligations.ShiftsAndCounts := by
  unfold Obligations.ShiftsAndCounts
  intro s asl lsr
  have haslA := modifyAccumulator_afterImplied s aslResult
  have hlsrA := modifyAccumulator_afterImplied s lsrResult
  rw [aslResult_eq] at haslA
  rw [lsrResult_eq] at hlsrA
  refine ⟨?_, rfl, congrArg _ haslA, rfl, congrArg _ hlsrA⟩
  intro m op i v
  exact ⟨afterModify_of_formsRun (modifyForm_runs (by simp)) (aslResult_eq v s.cpu.p),
    afterModify_of_formsRun (modifyForm_runs (by simp)) (lsrResult_eq v s.cpu.p),
    afterModify_of_formsRun (modifyForm_runs (by simp)) (incResult_eq v s.cpu.p),
    afterModify_of_formsRun (modifyForm_runs (by simp)) (decResult_eq v s.cpu.p)⟩

/-- Settles O16: the forms run `modifyOperand` and `modifyAccumulator` with their mnemonic's nine-bit rotation. -/
theorem rotatesGoThroughCarry : Obligations.RotatesGoThroughCarry := by
  unfold Obligations.RotatesGoThroughCarry
  intro s c rol ror
  have hrolA := modifyAccumulator_afterImplied s rolResult
  have hrorA := modifyAccumulator_afterImplied s rorResult
  rw [rolResult_eq] at hrolA
  rw [rorResult_eq] at hrorA
  refine ⟨?_, rfl, congrArg _ hrolA, rfl, congrArg _ hrorA⟩
  intro m op i v
  exact ⟨afterModify_of_formsRun (modifyForm_runs (by simp)) (rolResult_eq v s.cpu.p),
    afterModify_of_formsRun (modifyForm_runs (by simp)) (rorResult_eq v s.cpu.p)⟩

end Sys2Proof.Machine

/-! PROOFS (44_control_flow.md R233, R234, R243 to R245). The subroutine call and return, and the exception entry and
return as instructions. -/

namespace Sys2Proof.Machine

variable {s t : State}

/-- Settles O19, from the access list of `JSR`. -/
theorem jsrPushesItsLastAddress : Obligations.JsrPushesItsLastAddress := by
  unfold Obligations.JsrPushesItsLastAddress
  intro s w last before
  exact ⟨rfl, congrArg _ (opJsr_eq s w)⟩

/-- Settles O20, from the access list of `RTS`. -/
theorem rtsPullsPcAndAddsOne : Obligations.RtsPullsPcAndAddsOne := by
  unfold Obligations.RtsPullsPcAndAddsOne
  intro s dummies low high
  exact ⟨rfl, congrArg _ (opRts_eq s)⟩

/-- Settles O22, from the exception entry that `BRK` is. -/
theorem brkTakesTheIrqVector : Obligations.BrkTakesTheIrqVector := by
  unfold Obligations.BrkTakesTheIrqVector
  intro s
  exact ⟨rfl, congrArg _ (opBrk_eq s)⟩

/-- Each loadable flag is its bit of the number that the byte is (10_state.md R28, R29). -/
theorem unpackP_eq_testBit (v : Byte) (p : Flags) :
    unpackP v p =
      { n := v.toNat.testBit 7, v := v.toNat.testBit 6, b := p.b, d := v.toNat.testBit 3, i := v.toNat.testBit 2
        z := v.toNat.testBit 1, c := v.toNat.testBit 0 } := rfl

/-- Settles O23, from the access list of `RTI`. -/
theorem rtiPullsStatusAndPc : Obligations.RtiPullsStatusAndPc := by
  unfold Obligations.RtiPullsStatusAndPc
  intro s dummies first second v
  refine ⟨rfl, (congrArg _ (opRti_eq s)).trans ?_⟩
  simp only [unpackP_eq_testBit]
  rfl

/-! What was pushed onto RAM is what is pulled (44_control_flow.md R245). -/

/-- The byte pulled `k`-th after `n` pushes is at the place of the push `n - k` (20_memory.md R68, R69). -/
theorem stackAbove_of_spMinus {n k : Nat} (h : t.cpu.sp = spMinus s n) (hk : k ≤ n) (hn : n ≤ 256) :
    stackAbove t k = stackBelow s (n - k) := by
  apply BitVec.eq_of_toNat_eq
  simp only [stackAbove, stackBelow, h, spMinus, BitVec.toNat_ofNat]
  omega

/-- As many pulls as pushes leave `S` as it was, wherever it stands. -/
theorem spPlus_of_spMinus {n : Nat} (h : t.cpu.sp = spMinus s n) (hn : n ≤ 256) : spPlus t n = s.cpu.sp := by
  apply BitVec.eq_of_toNat_eq
  have := s.cpu.sp.isLt
  simp only [spPlus, h, spMinus, BitVec.toNat_ofNat]
  omega

/-- RAM answers the byte last written (20_memory.md R62). -/
theorem answer_of_lastWrite {a : Word} (v : Byte) (k : List Request) {addresses : List Word} {l : List Request}
    (h : s.bus.target a = .ram) (hl : WritesOnly addresses l) (ha : a ∉ addresses) :
    s.answer (k ++ .write a v :: l) a = v := by
  have hd : s.bus.target a ≠ .device := by simp [h]
  rw [State.answer, peek_after hd, ← after_after, after_cons, after_mem_read _ _ hl ha, serve_write_mem, after_target,
    if_pos h, read_write_same]

/-! The two pushes of `JSR`, read back after accesses that write nothing. -/

theorem answer_jsrPushes_high {l : List Request} (h : s.bus.target (stackBelow s 0) = .ram) (hl : ReadsOnly l) :
    s.answer (jsrPushes s ++ l) (stackBelow s 0) = hiByte (s.cpu.pc + 1) := by
  have hne : stackBelow s 0 ≠ stackBelow s 1 := by
    rw [← stackBelow_zero, ← stackBelow_one]
    exact stackAddress_ne_one _
  have hw : WritesOnly [stackBelow s 1] (.write (stackBelow s 1) (loByte (s.cpu.pc + 1)) :: l) :=
    List.forall_mem_cons.2 ⟨by simp, fun q hq a v e => absurd (hl.writesOnly q hq a v e) List.not_mem_nil⟩
  exact answer_of_lastWrite _ [.read s.cpu.pc, .read (stackBelow s 0)] h hw (by simpa using hne)

theorem answer_jsrPushes_low {l : List Request} (h : s.bus.target (stackBelow s 1) = .ram) (hl : ReadsOnly l) :
    s.answer (jsrPushes s ++ l) (stackBelow s 1) = loByte (s.cpu.pc + 1) :=
  answer_of_lastWrite _ [.read s.cpu.pc, .read (stackBelow s 0), .write (stackBelow s 0) (hiByte (s.cpu.pc + 1))] h
    hl.writesOnly List.not_mem_nil

theorem opJsr_cpu (s : State) (w : Word) :
    (opJsr w s).cpu =
      { s.cpu with sp := spMinus s 2, pc := word (s.answer (jsrPushes s) (s.cpu.pc + 1)) (loByte w) } := by
  rw [opJsr_eq]
  rfl

theorem opJsr_answer (s : State) (w : Word) (l : List Request) (a : Word) :
    (opJsr w s).answer l a = s.answer (jsrPushes s ++ .read (s.cpu.pc + 1) :: l) a := by
  simp [opJsr_eq, State.answer]

/-- After a `JSR` on a RAM stack, `RTS` pulls the address of the last byte of the `JSR`. -/
theorem rtsAddress_opJsr (w : Word) (h0 : s.bus.target (stackBelow s 0) = .ram)
    (h1 : s.bus.target (stackBelow s 1) = .ram) : rtsAddress (opJsr w s) = s.cpu.pc + 1 := by
  have hsp : (opJsr w s).cpu.sp = spMinus s 2 := by rw [opJsr_cpu]
  have hlow : stackAbove (opJsr w s) 1 = stackBelow s 1 := stackAbove_of_spMinus hsp (by decide) (by decide)
  have hhigh : stackAbove (opJsr w s) 2 = stackBelow s 0 := stackAbove_of_spMinus hsp (by decide) (by decide)
  rw [rtsAddress, hlow, hhigh, opJsr_answer, opJsr_answer, answer_jsrPushes_high h0 (by simp [ReadsOnly]),
    answer_jsrPushes_low h1 (by simp [ReadsOnly]), word_hiByte_loByte]

/-- Settles O21: `RTS` pulls the address that the `JSR` pushed and adds one. -/
theorem rtsUndoesJsr : Obligations.RtsUndoesJsr := by
  unfold Obligations.RtsUndoesJsr
  intro s w h0 h1
  refine ⟨opJsr w s, opRts (opJsr w s), rfl, rfl, ?_⟩
  have hsp : spPlus (opJsr w s) 2 = s.cpu.sp := spPlus_of_spMinus (by rw [opJsr_cpu]) (by decide)
  have hpc : s.cpu.pc + 1 + 1 = s.cpu.pc + 2 := BitVec.add_assoc ..
  rw [opRts_eq, mapCpu_cpu, perform_cpu, rtsAddress_opJsr w h0 h1, hsp, hpc, opJsr_cpu]

end Sys2Proof.Machine

/-! PROOFS (45_stack_flags_nop.md R250 to R261). The stack, flag and no-operation instructions. -/

namespace Sys2Proof.Machine

/-- A push at the start of an instruction, with the address and `S` in the terms of the statements. -/
theorem push_dummyFetch_stackBelow (s : State) (v : Byte) :
    push v (dummyFetch s) = (s.perform [.read s.cpu.pc, .write (stackBelow s 0) v]).mapCpu fun c =>
      { c with sp := spMinus s 1 } := by
  rw [push_dummyFetch_eq, stackBelow_zero]
  exact mapCpu_congr (by simp [spMinus_one])

/-- Settles O25: the two pushes are one access list with two bytes; the two pulls are the laws of `PLA` and `PLP`. -/
theorem stackInstructions : Obligations.StackInstructions := by
  unfold Obligations.StackInstructions
  intro s dummies pulled v
  refine ⟨rfl, congrArg _ (push_dummyFetch_stackBelow s _), rfl, congrArg _ (push_dummyFetch_stackBelow s _), rfl, ?_,
    rfl, ?_⟩
  · simp only [withZN_eq]
    exact congrArg _ (opPla_eq s)
  · refine (congrArg _ (opPlp_eq s)).trans ?_
    simp only [unpackP_eq_testBit]
    rfl

/-- Settles O26: each of the seven runs `implied` on its own flag, and `NOP` is `implied` with no change. -/
theorem flagInstructionsAndNop : Obligations.FlagInstructionsAndNop := by
  unfold Obligations.FlagInstructionsAndNop
  intro s op i p h
  simp only [List.mem_cons, List.not_mem_nil, or_false, Prod.mk.injEq] at h
  rcases h with ⟨rfl, rfl, rfl⟩ | ⟨rfl, rfl, rfl⟩ | ⟨rfl, rfl, rfl⟩ | ⟨rfl, rfl, rfl⟩ | ⟨rfl, rfl, rfl⟩ |
      ⟨rfl, rfl, rfl⟩ | ⟨rfl, rfl, rfl⟩ | ⟨rfl, rfl, rfl⟩
  case inr.inr.inr.inr.inr.inr.inr => exact ⟨rfl, congrArg _ (implied_afterImplied s id)⟩
  all_goals exact ⟨rfl, congrArg _ (implied_afterImplied s _)⟩

end Sys2Proof.Machine

/-! PROOFS (49_debugger.md R280 to R292). What the two tables answer, and what the commands write into them. -/

namespace Sys2Proof.Machine

section Keys

variable {α : Type} {key : α → Nat}

theorem key_of_findKey {k : Nat} {l : List α} {x : α} (h : findKey key k l = some x) : key x = k :=
  beq_iff_eq.1 (List.find?_some (p := fun x => key x == k) h)

theorem findKey_removeKey (k j : Nat) (l : List α) :
    findKey key j (removeKey key k l) = if j = k then none else findKey key j l := by
  split
  · next h => exact h ▸ findKey_removeKey_same j l
  · next h => exact findKey_removeKey_other h l

/-- The key of an (address, access) pair is that of no other pair (49_debugger.md R281). -/
theorem watchKey_pair_inj {a b : Word} {x y : WatchAccess} :
    a.toNat * 4 + x.rank = b.toNat * 4 + y.rank ↔ a = b ∧ x = y :=
  watchKey_eq (w := ⟨a, x, true⟩)

end Keys

/-! The lookups of 49_debugger.md R285 and R286. -/

section Lookups

variable {t : List Breakpoint} {u : List Watchpoint} {a : Word}

theorem enabled_breakpointAt_eq_some (h : Keyed breakKey t) {b : Breakpoint} :
    (breakpointAt t a).filter (·.enabled) = some b ↔ b ∈ t ∧ b.address = a ∧ b.enabled = true := by
  rw [Option.filter_eq_some_iff, breakpointAt_eq_some h, and_assoc]

theorem enabled_watchpointAt_eq_some (h : Keyed watchKey u) {k : WatchAccess} {w : Watchpoint} :
    (watchpointAt u a k).filter (·.enabled) = some w ↔
      w ∈ u ∧ w.address = a ∧ w.access = k ∧ w.enabled = true := by
  rw [Option.filter_eq_some_iff, watchpointAt_eq_some h, and_assoc, and_assoc]

theorem enabled_watchpointAt_eq_none (h : Keyed watchKey u) {k : WatchAccess} :
    (watchpointAt u a k).filter (·.enabled) = none ↔
      ∀ v ∈ u, v.address = a → v.access = k → v.enabled = false := by
  simp only [Option.eq_none_iff_forall_ne_some, ne_eq, enabled_watchpointAt_eq_some h, not_and, Bool.not_eq_true]

theorem checkFetch_fst (t : List Breakpoint) (a : Word) :
    (checkFetch t a).1 = (breakpointAt t a).filter (·.enabled) := by
  cases h : (breakpointAt t a).filter (·.enabled) with
  | none => rw [checkFetch_of_none h]
  | some b =>
    obtain ⟨hb, he⟩ := Option.filter_eq_some_iff.1 h
    rw [checkFetch_of_enabled hb he]

theorem mem_removeBreakpoint {b : Breakpoint} : b ∈ removeBreakpoint a t ↔ b ∈ t ∧ b.address ≠ a := by
  rw [removeBreakpoint, mem_removeKey, ne_eq, breakKey_eq]

/-- A lookup removes the record it answers if that is soft, and no other (49_debugger.md R285). -/
theorem mem_checkFetch_snd (h : Keyed breakKey t) {b : Breakpoint} :
    b ∈ (checkFetch t a).2 ↔ b ∈ t ∧ ¬ ((checkFetch t a).1 = some b ∧ b.kind = .soft) := by
  cases hf : (breakpointAt t a).filter (·.enabled) with
  | none => simp [checkFetch_of_none hf]
  | some r =>
    obtain ⟨hr, he⟩ := Option.filter_eq_some_iff.1 hf
    rw [checkFetch_of_enabled hr he]
    cases hk : r.kind with
    | hard =>
      refine ⟨fun hb => ⟨hb, ?_⟩, And.left⟩
      rintro ⟨e, hs⟩
      cases e
      cases hk.symm.trans hs
    | soft =>
      refine mem_removeBreakpoint.trans (and_congr_right fun hb => not_congr ⟨fun ha => ?_, ?_⟩)
      · have e : r = b := Option.some.inj (hr.symm.trans ((breakpointAt_eq_some h).2 ⟨hb, ha⟩))
        exact ⟨congrArg some e, e ▸ hk⟩
      · rintro ⟨e, -⟩
        cases e
        exact ((breakpointAt_eq_some h).1 hr).2

/-- The record of the access's own kind is asked first (49_debugger.md R286). -/
theorem checkAccess_eq (u : List Watchpoint) (a : Word) (k : AccessKind) :
    checkAccess u a k =
      ((watchpointAt u a k.exact).filter (·.enabled)).or ((watchpointAt u a .any).filter (·.enabled)) := by
  unfold checkAccess
  cases (watchpointAt u a k.exact).filter (·.enabled) <;> rfl

theorem checkAccess_eq_some (h : Keyed watchKey u) {k : AccessKind} {w : Watchpoint} :
    checkAccess u a k = some w ↔ w ∈ u ∧ w.address = a ∧ w.enabled = true ∧
      (w.access = k.exact ∨ (w.access = .any ∧ ∀ v ∈ u, v.address = a → v.access = k.exact → v.enabled = false)) := by
  rw [checkAccess_eq, Option.or_eq_some_iff, enabled_watchpointAt_eq_some h, enabled_watchpointAt_eq_none h,
    enabled_watchpointAt_eq_some h]
  constructor
  · rintro (⟨hw, ha, hk, he⟩ | ⟨hn, hw, ha, hk, he⟩)
    · exact ⟨hw, ha, he, .inl hk⟩
    · exact ⟨hw, ha, he, .inr ⟨hk, hn⟩⟩
  · rintro ⟨hw, ha, he, hk | ⟨hk, hn⟩⟩
    · exact .inl ⟨hw, ha, hk, he⟩
    · exact .inr ⟨hn, hw, ha, hk, he⟩

/-- Settles O53: the fetch lookup is the enabled record at the address, and the access lookup that of the own kind or
else that of `any`. -/
theorem debuggerLookups : Obligations.DebuggerLookups := by
  unfold Obligations.DebuggerLookups
  intro t u a k ht hu
  have fst_iff (b : Breakpoint) : (checkFetch t a).1 = some b ↔ b ∈ t ∧ b.address = a ∧ b.enabled = true := by
    rw [checkFetch_fst, enabled_breakpointAt_eq_some ht]
  refine ⟨fst_iff, fun b => ?_, fun w => checkAccess_eq_some hu⟩
  rw [mem_checkFetch_snd ht, fst_iff]
  refine and_congr_right fun hb => not_congr ?_
  rw [and_iff_right hb, and_assoc]

end Lookups

/-! The commands of 49_debugger.md R282, R287 to R292. -/

section Commands

variable (s : State) (a b : Word) (x y : WatchAccess) (e : Bool)

theorem breakpointAt_putBreakpoint (r : Breakpoint) (t : List Breakpoint) :
    breakpointAt (putBreakpoint r t) b = if b = r.address then some r else breakpointAt t b := by
  simp only [breakpointAt, putBreakpoint, findKey_putKey, breakKey_eq, eq_comm (a := b)]

theorem breakpointAt_removeBreakpoint (t : List Breakpoint) :
    breakpointAt (removeBreakpoint a t) b = if b = a then none else breakpointAt t b := by
  simp only [breakpointAt, removeBreakpoint, findKey_removeKey, BitVec.toNat_inj]

theorem watchpointAt_putWatchpoint (r : Watchpoint) (t : List Watchpoint) :
    watchpointAt (putWatchpoint r t) b y =
      if b = r.address ∧ y = r.access then some r else watchpointAt t b y := by
  simp only [watchpointAt, putWatchpoint, findKey_putKey, watchKey_eq, eq_comm (a := b), eq_comm (a := y)]

theorem watchpointAt_removeWatchpoint (t : List Watchpoint) :
    watchpointAt (removeWatchpoint a x t) b y = if b = a ∧ y = x then none else watchpointAt t b y := by
  simp only [watchpointAt, removeWatchpoint, findKey_removeKey, watchKey_pair_inj]

theorem breakpointAt_enableBreakpoint :
    breakpointAt (enableBreakpoint a e s).bps b =
      (breakpointAt s.bps b).map fun r => { r with enabled := if b = a then e else r.enabled } := by
  refine (findKey_map (fun r => ?_) _ _).trans (Option.map_congr fun r hr => ?_)
  · simp only [breakKey]
    split <;> rfl
  · obtain rfl := breakKey_eq.1 (key_of_findKey hr)
    split <;> rfl

theorem watchpointAt_enableWatchpoint :
    watchpointAt (enableWatchpoint a x e s).wps b y =
      (watchpointAt s.wps b y).map fun r => { r with enabled := if b = a ∧ y = x then e else r.enabled } := by
  refine (findKey_map (fun r => ?_) _ _).trans (Option.map_congr fun r hr => ?_)
  · simp only [watchKey]
    split <;> rfl
  · obtain ⟨rfl, rfl⟩ := watchKey_eq.1 (key_of_findKey hr)
    split <;> rfl

/-! The observer's record of what `singleStep()` armed (log 24). -/

theorem mem_removeKey_toNat {l : List Word} {a b : Word} :
    b ∈ removeKey BitVec.toNat a.toNat l ↔ b ∈ l ∧ b ≠ a := by
  rw [mem_removeKey, ne_eq, BitVec.toNat_inj]

theorem mem_putKey_toNat {l : List Word} {a b : Word} : b ∈ putKey BitVec.toNat a l ↔ b = a ∨ b ∈ l := by
  rw [putKey, mem_insertKey, mem_removeKey_toNat]
  by_cases h : b = a <;> simp [h]

/-- Clearing a watchpoint that is not there changes nothing (49_debugger.md R290). -/
theorem clearWatchpoint_absent {s : State} {a : Word} {x : WatchAccess} (h : watchpointAt s.wps a x = none) :
    clearWatchpoint a x s = s :=
  congrArg (fun t => { s with wps := t }) (removeKey_absent h)

/-- Settles O52, command by command, from what the lookups answer after a put, a removal and a change of `enabled`. -/
theorem tableCommandsWriteOneRecord : Obligations.TableCommandsWriteOneRecord := by
  unfold Obligations.TableCommandsWriteOneRecord
  intro s a b k e x y
  exact ⟨⟨rfl, breakpointAt_putBreakpoint b _ _, mem_removeKey_toNat⟩,
    ⟨rfl, breakpointAt_removeBreakpoint a b _, removeKey_absent, mem_removeKey_toNat⟩,
    ⟨rfl, watchpointAt_putWatchpoint b y _ _⟩,
    ⟨rfl, watchpointAt_removeWatchpoint a b x y _, clearWatchpoint_absent⟩,
    ⟨rfl, breakpointAt_enableBreakpoint s a b e⟩,
    ⟨rfl, watchpointAt_enableWatchpoint s a b x y e⟩,
    ⟨rfl, rfl, mem_putKey_toNat⟩⟩

end Commands

/-- Settles O56, call by call: no call but the three excluded writes a field of the processor, three write the bus and
one the lines. -/
theorem hostCommandsLeaveTheProcessor : Obligations.HostCommandsLeaveTheProcessor := by
  unfold Obligations.HostCommandsLeaveTheProcessor
  intro c s t r hc he h
  have state_eq {x : Reply × State} (e : hostCall c s = .next x) : t = x.2 := congrArg Prod.snd (next_inj h e)
  cases c with
  | step => exact absurd rfl hc
  | reset | loadSnapshot => cases he
  | setBytes l =>
    rw [state_eq rfl]
    exact ⟨rfl, rfl, rfl, rfl, rfl, fun hl _ _ => absurd rfl (hl l), fun _ => ⟨rfl, rfl⟩⟩
  | setMap m =>
    rw [state_eq rfl]
    exact ⟨rfl, rfl, rfl, rfl, rfl, fun _ hm _ => absurd rfl (hm m), fun _ => ⟨rfl, rfl⟩⟩
  | deviceChange n =>
    rw [state_eq rfl]
    exact ⟨rfl, rfl, rfl, rfl, rfl, fun _ _ hn => absurd rfl (hn n), fun _ => ⟨rfl, rfl⟩⟩
  | setLines i n =>
    rw [state_eq rfl]
    exact ⟨rfl, rfl, rfl, rfl, rfl, fun _ _ _ => rfl, fun hl => absurd rfl (hl i n)⟩
  | configure o v =>
    rw [state_eq rfl, configure_state]
    exact ⟨rfl, rfl, rfl, rfl, rfl, fun _ _ _ => rfl, fun _ => ⟨rfl, rfl⟩⟩
  | setBreakpoint | clearBreakpoint | setWatchpoint | clearWatchpoint | enableBreakpoint | enableWatchpoint
  | singleStep | captureSnapshot =>
    rw [state_eq rfl]
    exact ⟨rfl, rfl, rfl, rfl, rfl, fun _ _ _ => rfl, fun _ => ⟨rfl, rfl⟩⟩

end Sys2Proof.Machine

/-! PROOFS (49_debugger.md R292 to R296). What breakpoints and watchpoints do to a step, and what the observer reports. -/

namespace Sys2Proof.Machine

variable {s t : State}

/-! The outcome of a step that made accesses (40_step_and_addressing.md R124). -/

theorem finish_outcome_of_jammed (hj : s.cpu.jammed = true) : (finish s).outcome = some .jammed := by
  simp [finish, hj]

theorem finish_outcome_of_match {a : Word} (hj : s.cpu.jammed = false) (hw : s.watchHit = some a) :
    (finish s).outcome = some (.trapped ⟨a, .watchpoint, s.cpu⟩) := by
  simp [finish, hj, hw]

theorem finish_outcome_of_no_match (hj : s.cpu.jammed = false) (hw : s.watchHit = none) :
    (finish s).outcome = some .ok := by
  simp [finish, hj, hw]

/-- The trap of a step that made accesses is a watchpoint's. -/
theorem kind_of_finish_trapped {x : ExecutionTrap} (h : (finish s).outcome = some (.trapped x)) :
    x.kind = .watchpoint := by
  cases hj : s.cpu.jammed with
  | true => cases h.symm.trans (finish_outcome_of_jammed hj)
  | false =>
    cases hw : s.watchHit with
    | none => cases h.symm.trans (finish_outcome_of_no_match hj hw)
    | some a =>
      cases h.symm.trans (finish_outcome_of_match hj hw)
      rfl

/-- A breakpoint trap leaves the bypass at its own `PC` (49_debugger.md R293). -/
theorem bpSkip_of_breakpoint_trap {x : ExecutionTrap} (h : step s = .next t) (ho : t.outcome = some (.trapped x))
    (hk : x.kind = .breakpoint) : t.bpSkip = some t.cpu.pc := by
  rcases step_form s with ⟨-, e⟩ | ⟨-, -, bps, -, e⟩ | ⟨-, u, l, f, -, e⟩
  · rw [next_inj h e] at ho
    cases ho
  · rw [next_inj h e]
    rfl
  · rw [next_inj h e] at ho
    cases hk.symm.trans (kind_of_finish_trapped ho)

/-- Settles O40: the trap leaves the bypass at its `PC`, so a step that reaches the fetch stage runs the instruction
there, whose first access is the opcode fetch. -/
theorem resumePassesTheBreakpoint : Obligations.ResumePassesTheBreakpoint := by
  unfold Obligations.ResumePassesTheBreakpoint
  intro s t x h ho hk hr
  have hn : NoBreakpoint t := .inl (bpSkip_of_breakpoint_trap h ho hk)
  obtain ⟨L, F, hu⟩ := exec_uniform (instrAt t.bus t.cpu.pc)
  exact ⟨_, step_instruction hr hn hu, rfl, rfl, rfl, fun y hy => kind_of_finish_trapped hy⟩

theorem firstMatch_no_watchpoints (l : List Access) : firstMatch [] l = none := by
  have hnone : (l.find? fun _ => false) = none := List.find?_eq_none.2 fun _ _ => Bool.false_ne_true
  exact congrArg (Option.map Access.address) hnone

/-- Accesses without a watchpoint end in no trap. -/
theorem outcome_of_no_watchpoints {u : State} (l : List Request) (f : ProcessorState → ProcessorState)
    (hw : u.wps = []) (hh : u.watchHit = none) :
    (finish ((u.perform l).mapCpu f)).outcome = some .ok ∨ (finish ((u.perform l).mapCpu f)).outcome = some .jammed := by
  have hm : ((u.perform l).mapCpu f).watchHit = none := by
    rw [mapCpu_watchHit, perform_watchHit, hw, hh, firstMatch_no_watchpoints]
    rfl
  cases hj : ((u.perform l).mapCpu f).cpu.jammed with
  | false => exact .inl (finish_outcome_of_no_match hj hm)
  | true => exact .inr (finish_outcome_of_jammed hj)

/-- Settles O42: with no breakpoint the step is no breakpoint trap, and with no watchpoint no access matches. -/
theorem noTableEntryNoTrap : Obligations.NoTableEntryNoTrap := by
  unfold Obligations.NoTableEntryNoTrap
  intro s t hb hw h
  rcases step_kinds s with hj | ⟨hj, hd⟩ | ⟨-, -, r, hat, -⟩ | ⟨hr, hn⟩
  · rw [next_inj h (step_jammed hj)]
    exact ⟨hb, hw, .inr rfl⟩
  · rw [next_inj h (step_interrupt hj hd)]
    exact ⟨hb, hw, outcome_of_no_watchpoints (u := s.atInterrupt) _ _ hw rfl⟩
  · rw [hb] at hat
    cases hat
  · obtain ⟨L, F, hu⟩ := exec_uniform (instrAt s.bus s.cpu.pc)
    rw [next_inj h (step_instruction hr hn hu)]
    exact ⟨hb, hw, outcome_of_no_watchpoints (u := s.atFetch) _ _ hw rfl⟩

/-- Settles O43: both states step by the same kind of step, with the same accesses; WP_TABLE is asked for the match
only. -/
theorem watchpointsAlterNothing : Obligations.WatchpointsAlterNothing := by
  unfold Obligations.WatchpointsAlterNothing
  intro s t u w h hw
  rcases step_kinds s with hj | ⟨hj, hd⟩ | ⟨hr, hs, b, hb, he⟩ | ⟨hr, hn⟩
  · rw [next_inj h (step_jammed hj), next_inj hw (step_jammed (s := { s with wps := w }) hj)]
    rfl
  · rw [next_inj h (step_interrupt hj hd), next_inj hw (step_interrupt (s := { s with wps := w }) hj hd)]
    rfl
  · rw [next_inj h (step_trap hr hs hb he), next_inj hw (step_trap (s := { s with wps := w }) hr hs hb he)]
    rfl
  · obtain ⟨L, F, hu⟩ := exec_uniform (instrAt s.bus s.cpu.pc)
    rw [next_inj h (step_instruction hr hn hu), next_inj hw (step_instruction (s := { s with wps := w }) hr hn hu)]
    rfl

theorem notification_of_trapped {x : ExecutionTrap} (h : t.outcome = some (.trapped x)) :
    notification s t = some ⟨x.address, trapNotice s.stepArmed x, x.state⟩ := by
  simp only [notification, h]

/-- A breakpoint that `singleStep()` armed is reported as single-step completion (49_debugger.md R292; log 24). -/
theorem trapNotice_of_armed {l : List Word} {a : Word} {c : ProcessorState} (h : a ∈ l) :
    trapNotice l ⟨a, .breakpoint, c⟩ = .singleStep :=
  if_pos h

theorem notification_of_jammed (h : t.outcome = some .jammed) :
    notification s t = if s.cpu.jammed then none else some ⟨t.cpu.pc, .jam, t.cpu⟩ := by
  simp only [notification, h]

theorem notification_of_ok (h : t.outcome = some .ok) : notification s t = none := by
  simp only [notification, h]

/-- A step leaves the record of the observer. -/
theorem step_stepArmed (h : step s = .next t) : t.stepArmed = s.stepArmed := by
  rcases step_form s with ⟨-, e⟩ | ⟨-, -, bps, -, e⟩ | ⟨-, u, l, f, hr, e⟩
  · rw [next_inj h e]
    rfl
  · rw [next_inj h e]
    rfl
  · rw [next_inj h e, finish_stepArmed, mapCpu_stepArmed, perform_stepArmed, hr.stepArmed]

/-- A step that enters the jam answers `Jammed` (40_step_and_addressing.md R124). -/
theorem outcome_of_jam (h : step s = .next t) (hs : s.cpu.jammed = false) (ht : t.cpu.jammed = true) :
    t.outcome = some .jammed := by
  rcases (outcomeOfAStep s t h).2 hs with ⟨-, -, hc⟩ | ⟨-, ho⟩
  · rw [hc, hs] at ht
    cases ht
  · rw [ho, if_pos ht]

/-- Settles O59: a notification is made from the outcome, which O41 says of a jam. -/
theorem trapsAndJamsAreNotified : Obligations.TrapsAndJamsAreNotified := by
  unfold Obligations.TrapsAndJamsAreNotified
  intro s t h
  refine ⟨fun x hx => ?_, fun hs ht => ?_, fun hs => ?_, notification_of_ok, step_stepArmed h⟩
  · rw [notification_of_trapped hx]
    rfl
  · rw [notification_of_jammed (outcome_of_jam h hs ht), hs]
    rfl
  · rw [notification_of_jammed ((outcomeOfAStep s t h).1 hs).1, if_pos hs]

/-! Single-stepping (49_debugger.md R292). -/

/-- The breakpoint that `singleStep()` arms is not at the current instruction. -/
theorem stepAddress_ne_pc (s : State) : s.cpu.pc ≠ stepAddress s := by
  unfold stepAddress
  rcases instrLength_cases (peek s.bus s.cpu.pc) with hl | hl | hl <;> rw [hl] <;> bv_omega

theorem noBreakpoint_singleStep (h : NoBreakpoint s) : NoBreakpoint (singleStep s) := by
  refine h.imp_right fun hb => ?_
  have hne : breakpointAt (singleStep s).bps s.cpu.pc = breakpointAt s.bps s.cpu.pc :=
    (breakpointAt_putBreakpoint _ _ _).trans (if_neg (stepAddress_ne_pc s))
  exact (congrArg _ hne).trans hb

theorem length_encode_instrAt (b : Bus) (pc : Word) : (encode (instrAt b pc)).length = instrLength (peek b pc) := by
  have := instrLength_le_three (peek b pc)
  rw [instrAt_eq, encode_decodeBytes, List.length_take]
  exact Nat.min_eq_left this

/-- A step that runs an instruction that is no control transfer ends at the address `singleStep()` would arm, uses the
bypass up, and leaves the breakpoints. -/
structure SteppedPast (s t : State) : Prop where
  pc : t.cpu.pc = stepAddress s
  bpSkip : t.bpSkip = none
  bps : t.bps = s.bps

theorem steppedPast_of_step (hr : ReachesFetch s) (hn : NoBreakpoint s)
    (hc : transfersControl (instrAt s.bus s.cpu.pc) = false) (h : step s = .next t) : SteppedPast s t := by
  obtain ⟨L, F, hu⟩ := exec_uniform (instrAt s.bus s.cpu.pc)
  have hw : (instrAt s.bus s.cpu.pc).wellFormed = true := decodeBytes_wellFormed ..
  have hpc := pcMovesPastTheInstruction _ s.fetched _ hw hc (hu.eq _)
  have hback : s.fetched.cpu.pc - 1 = s.cpu.pc := BitVec.add_sub_cancel _ _
  rw [hback, length_encode_instrAt] at hpc
  rw [next_inj h (step_instruction hr hn hu)]
  exact ⟨hpc, rfl, rfl⟩

/-- Settles O58: the step past the instruction ends where the breakpoint was armed, with no bypass. -/
theorem singleStepStopsAfterTheInstruction : Obligations.SingleStepStopsAfterTheInstruction := by
  unfold Obligations.SingleStepStopsAfterTheInstruction
  intro s t hr hn hc h ht
  have hp : SteppedPast (singleStep s) t := steppedPast_of_step hr (noBreakpoint_singleStep hn) hc h
  have hpc : t.cpu.pc = stepAddress s := hp.pc
  have hb : breakpointAt t.bps t.cpu.pc = some ⟨stepAddress s, .soft, true⟩ := by
    rw [hp.bps, hpc]
    exact (breakpointAt_putBreakpoint _ _ _).trans (if_pos rfl)
  have hs : t.bpSkip ≠ some t.cpu.pc := by
    rw [hp.bpSkip]
    exact nofun
  have ha : t.cpu.pc ∈ t.stepArmed := by
    rw [step_stepArmed h, hpc]
    exact mem_putKey_self _ _
  refine ⟨hpc, _, step_trap ht hs hb rfl, rfl, rfl, rfl, rfl, ?_⟩
  rw [notification_of_trapped (x := ⟨t.cpu.pc, .breakpoint, t.cpu⟩) rfl, trapNotice_of_armed ha]

end Sys2Proof.Machine

/-! PROOFS (60_exceptions.md R310 to R327). The exception entry and its return, the interrupts, the breakpoint stop, the
jam, and that nothing faults. -/

namespace Sys2Proof.Machine

variable {s t : State}

/-! `RTI` after an exception entry on a RAM stack (R319, R320, 44_control_flow.md R245). -/

/-- Two places of the stack page are two bytes. -/
theorem stackBelow_ne {m n : Nat} (hm : m ≤ 255) (hn : n ≤ 255) (h : m ≠ n) : stackBelow s m ≠ stackBelow s n := by
  intro e
  have := congrArg BitVec.toNat e
  simp only [stackBelow, BitVec.toNat_ofNat] at this
  omega

theorem writesOnly_cons_write {addresses : List Word} {a : Word} (v : Byte) {l : List Request} (ha : a ∈ addresses)
    (hl : WritesOnly addresses l) : WritesOnly addresses (.write a v :: l) :=
  List.forall_mem_cons.2 ⟨fun _ _ e => by cases e; exact ha, hl⟩

theorem ReadsOnly.writesOnly_any {l : List Request} (h : ReadsOnly l) (addresses : List Word) :
    WritesOnly addresses l :=
  fun q hq a v e => absurd (h.writesOnly q hq a v e) List.not_mem_nil

/-! The three pushes of an entry, read back after accesses that write nothing. -/

section EntryPushes

variable {l : List Request} (b : Bool) (ret : Word)

theorem answer_entryPushes_status (h : s.bus.target (stackBelow s 2) = .ram) (hl : ReadsOnly l) :
    s.answer (entryPushes b ret s ++ l) (stackBelow s 2) = packP b s.cpu.p :=
  answer_of_lastWrite _ [.write (stackBelow s 0) (hiByte ret), .write (stackBelow s 1) (loByte ret)] h hl.writesOnly
    List.not_mem_nil

theorem answer_entryPushes_low (h : s.bus.target (stackBelow s 1) = .ram) (hl : ReadsOnly l) :
    s.answer (entryPushes b ret s ++ l) (stackBelow s 1) = loByte ret :=
  answer_of_lastWrite (addresses := [stackBelow s 2]) _ [.write (stackBelow s 0) (hiByte ret)] h
    (writesOnly_cons_write _ List.mem_cons_self (hl.writesOnly_any _))
    (by simpa using stackBelow_ne (by decide) (by decide) (by decide))

theorem answer_entryPushes_high (h : s.bus.target (stackBelow s 0) = .ram) (hl : ReadsOnly l) :
    s.answer (entryPushes b ret s ++ l) (stackBelow s 0) = hiByte ret :=
  answer_of_lastWrite (addresses := [stackBelow s 1, stackBelow s 2]) _ [] h
    (writesOnly_cons_write _ (by simp) (writesOnly_cons_write _ (by simp) (hl.writesOnly_any _)))
    (by simp [stackBelow_ne])

end EntryPushes

theorem takeException_cpu (b : Bool) (vec : Word) :
    (takeException b vec s).cpu =
      { s.cpu with
        sp := spMinus s 3, p := { s.cpu.p with i := true }, pc := vectorWord (entryPushes b s.cpu.pc s) vec s } := by
  rw [takeException_eq]
  rfl

theorem takeException_answer (b : Bool) (vec : Word) (l : List Request) (a : Word) :
    (takeException b vec s).answer l a =
      s.answer (entryPushes b s.cpu.pc s ++ .read vec :: .read (vec + 1) :: l) a := by
  simp [takeException_eq, State.afterEntry, State.answer]

/-- Settles O24: `RTI` pulls the status and the `PC` that the entry pushed, and `S` is back where it was. -/
theorem rtiUndoesExceptionEntry : Obligations.RtiUndoesExceptionEntry := by
  unfold Obligations.RtiUndoesExceptionEntry
  intro s b vec hram
  refine ⟨opRti (takeException b vec s), rfl, ?_⟩
  have hsp : (takeException b vec s).cpu.sp = spMinus s 3 := by rw [takeException_cpu]
  have hback : spPlus (takeException b vec s) 3 = s.cpu.sp := spPlus_of_spMinus hsp (by decide)
  have hstatus : stackAbove (takeException b vec s) 1 = stackBelow s 2 :=
    stackAbove_of_spMinus hsp (by decide) (by decide)
  have hlow : stackAbove (takeException b vec s) 2 = stackBelow s 1 :=
    stackAbove_of_spMinus hsp (by decide) (by decide)
  have hhigh : stackAbove (takeException b vec s) 3 = stackBelow s 0 :=
    stackAbove_of_spMinus hsp (by decide) (by decide)
  rw [opRti_eq, mapCpu_cpu, perform_cpu, hback, hstatus, hlow, hhigh, takeException_answer, takeException_answer,
    takeException_answer, answer_entryPushes_status _ _ (hram 2 (by decide)) (by simp [ReadsOnly, pullDummies]),
    answer_entryPushes_low _ _ (hram 1 (by decide)) (by simp [ReadsOnly, pullDummies]),
    answer_entryPushes_high _ _ (hram 0 (by decide)) (by simp [ReadsOnly, pullDummies]), unpackP_packP,
    word_hiByte_loByte, takeException_cpu]

/-! The kinds of a step (R311 to R326), each with its outcome. -/

/-- The end of a step that made accesses and does not jam: a watchpoint match is reported, after all of its effects
(40_step_and_addressing.md R124). -/
theorem finish_of_not_jammed (hj : s.cpu.jammed = false) :
    finish s = { s with
      outcome := some (match s.watchHit with | some a => .trapped ⟨a, .watchpoint, s.cpu⟩ | none => .ok) } :=
  congrArg (fun o => { s with outcome := some o }) (if_neg (by simp [hj]))

/-- Settles O37: the step is the interrupt sequence, of which no part sets `jammed`. -/
theorem interruptsAreTaken : Obligations.InterruptsAreTaken := by
  unfold Obligations.InterruptsAreTaken
  intro s hj done
  have hdone (vec : Word) : finish (interruptSequence vec s.atInterrupt) = done (s.atInterrupt.afterInterrupt vec) := by
    rw [interruptSequence_after]
    exact finish_of_not_jammed hj
  refine ⟨fun hn => ?_, fun hn hl hi => ?_⟩
  · exact (step_nmi hj hn).trans (congrArg _ (hdone nmiVector))
  · exact (step_irq hj hn (by rw [hl, hi]; rfl)).trans (congrArg _ (hdone irqVector))

/-- Settles O28: an undefined opcode decodes to the jam whatever follows it; `Jammed` outranks the match. -/
theorem undefinedOpcodeJams : Obligations.UndefinedOpcodeJams := by
  unfold Obligations.UndefinedOpcodeJams
  refine fun s op => ⟨rfl, fun hr hn hop => ?_⟩
  have hi : instrAt s.bus s.cpu.pc = .jam (peek s.bus s.cpu.pc) := decodeBytes_none (opcodeRow_eq_none.2 hop) _ _
  exact (step_run hr hn).trans (runInstruction_jam hi)

/-- Settles O36: line 1 of the step. -/
theorem jammedStepDoesNothing : Obligations.JammedStepDoesNothing := by
  unfold Obligations.JammedStepDoesNothing
  exact fun s => step_jammed

/-- Settles O39: the step is the breakpoint trap at the fetch stage. -/
theorem breakpointStopsBeforeTheInstruction : Obligations.BreakpointStopsBeforeTheInstruction := by
  unfold Obligations.BreakpointStopsBeforeTheInstruction
  exact fun s b hr hs hb he => step_trap hr hs hb he

/-! Totality (R310). -/

theorem exec_next (i : Instr) (s : State) : ∃ t, exec i s = .next t := by
  obtain ⟨L, F, hu⟩ := exec_uniform i
  exact ⟨_, hu.eq s⟩

theorem step_next (s : State) : ∃ t, step s = .next t := by
  rcases step_form s with ⟨-, e⟩ | ⟨-, -, bps, -, e⟩ | ⟨-, u, l, f, -, e⟩
  · exact ⟨_, e⟩
  · exact ⟨_, e⟩
  · exact ⟨_, e⟩

/-- Settles O49, from the one shape of every instruction and the three shapes of every step. -/
theorem everyStepAnswersANextState : Obligations.EveryStepAnswersANextState := by
  unfold Obligations.EveryStepAnswersANextState
  exact ⟨exec_next, step_next⟩

/-! The jam is terminal (R327). -/

/-- The parts of the state that only a step, `reset` and `loadSnapshot` change are as before. -/
structure ProcessorKept (s t : State) : Prop where
  cpu : t.cpu = s.cpu
  cycles : t.cycles = s.cycles
  nmiPrev : t.nmiPrev = s.nmiPrev
  nmiPending : t.nmiPending = s.nmiPending
  bpSkip : t.bpSkip = s.bpSkip

theorem ProcessorKept.refl (s : State) : ProcessorKept s s := ⟨rfl, rfl, rfl, rfl, rfl⟩

theorem ProcessorKept.trans {u : State} (h : ProcessorKept s t) (k : ProcessorKept t u) : ProcessorKept s u :=
  ⟨k.cpu.trans h.cpu, k.cycles.trans h.cycles, k.nmiPrev.trans h.nmiPrev, k.nmiPending.trans h.nmiPending,
    k.bpSkip.trans h.bpSkip⟩

theorem hostCall_step (h : step s = .next t) : hostCall .step s = .next (.stepped t.outcome, t) := by
  simp only [hostCall, h]

/-- A jammed engine keeps its processor through every call that does not end a jam, a step among them. -/
theorem processorKept_of_hostCall {c : HostCall} {r : Reply} (hj : s.cpu.jammed = true) (hc : c.endsJam = false)
    (h : hostCall c s = .next (r, t)) : ProcessorKept s t := by
  by_cases hstep : c = .step
  · subst hstep
    obtain rfl : t = jammedStep s := congrArg Prod.snd (next_inj h (hostCall_step (step_jammed hj)))
    exact ⟨rfl, rfl, rfl, rfl, rfl⟩
  · obtain ⟨hcpu, hcycles, hprev, hpending, hskip, -⟩ := hostCommandsLeaveTheProcessor c s t r hstep hc h
    exact ⟨hcpu, hcycles, hprev, hpending, hskip⟩

/-- A session that ends makes its first call, then the rest of it. -/
theorem session_cons {c : HostCall} {rest : List HostCall} (h : session (c :: rest) s = .next t) :
    ∃ r u, hostCall c s = .next (r, u) ∧ session rest u = .next t := by
  rw [session] at h
  split at h
  · next r hr => exact ⟨r.1, r.2, hr, h⟩
  · cases h
  · cases h

theorem processorKept_of_session {calls : List HostCall} (hj : s.cpu.jammed = true)
    (hc : ∀ c ∈ calls, c.endsJam = false) (h : session calls s = .next t) : ProcessorKept s t := by
  induction calls generalizing s with
  | nil =>
    obtain rfl : t = s := next_inj h rfl
    exact .refl t
  | cons c rest ih =>
    obtain ⟨hfirst, hrest⟩ := List.forall_mem_cons.1 hc
    obtain ⟨r, u, hu, ht⟩ := session_cons h
    have hk := processorKept_of_hostCall hj hfirst hu
    exact hk.trans (ih (hk.cpu ▸ hj) hrest ht)

/-- Settles O55, by induction on the calls: each leaves the engine jammed. -/
theorem jamIsTerminal : Obligations.JamIsTerminal := by
  unfold Obligations.JamIsTerminal
  intro calls s t hj hc h
  obtain ⟨hcpu, hcycles, hprev, hpending, hskip⟩ := processorKept_of_session hj hc h
  exact ⟨hcpu, hcycles, hprev, hpending, hskip⟩

end Sys2Proof.Machine

/-! PROOFS (70_reset_and_hazards.md R350 to R360). Reset, snapshots, `configure`, and the loop that calls `step()`. -/

namespace Sys2Proof.Machine

variable {s t : State}

/-! A run: the equation of each way it goes on from a state, then how it can end. -/

section Run

variable {limit : Option Nat} {start fuel : Nat} {o : StepOutcome}

/-- The budget, if there is one, is consumed (70_reset_and_hazards.md R360). -/
abbrev BudgetConsumed (limit : Option Nat) (start : Nat) (s : State) : Prop :=
  limit.any (fun b => b ≤ s.cycles - start) = true

theorem budgetConsumed_some {budget : Nat} : BudgetConsumed (some budget) start s ↔ budget ≤ s.cycles - start :=
  decide_eq_true_iff

theorem not_budgetConsumed_none : ¬ BudgetConsumed none start s := Bool.false_ne_true

theorem runLoop_of_consumed (h : BudgetConsumed limit start s) :
    runLoop limit start fuel s = .next (.completed, s) := by
  unfold runLoop
  exact if_pos h

theorem runLoop_zero (h : ¬ BudgetConsumed limit start s) : runLoop limit start 0 s = .next (.outOfFuel, s) := by
  rw [runLoop, if_neg h]

theorem runLoop_succ_of_ok (h : ¬ BudgetConsumed limit start s) (hs : step s = .next t) (ho : t.outcome = some .ok) :
    runLoop limit start (fuel + 1) s = runLoop limit start fuel t := by
  rw [runLoop, if_neg h]
  simp only [hs, ho]

theorem runLoop_succ_of_not_ok (h : ¬ BudgetConsumed limit start s) (hs : step s = .next t)
    (ho : t.outcome = some o) (hne : o ≠ .ok) : runLoop limit start (fuel + 1) s = .next (.stopped o, t) := by
  rw [runLoop, if_neg h]
  cases o with
  | ok => exact absurd rfl hne
  | trapped x => simp only [hs, ho]
  | jammed => simp only [hs, ho]

theorem exists_outcome_of_step (h : step s = .next t) : ∃ o, t.outcome = some o := by
  cases hj : s.cpu.jammed with
  | true => exact ⟨_, ((outcomeOfAStep s t h).1 hj).1⟩
  | false =>
    rcases (outcomeOfAStep s t h).2 hj with ⟨ho, -⟩ | ⟨-, ho⟩
    · exact ⟨_, ho⟩
    · exact ⟨_, ho⟩

/-- An `Ok` step makes an access: the steps that make none are jammed or breakpoint traps. -/
theorem trace_ne_nil_of_ok (h : step s = .next t) (ho : t.outcome = some .ok) : t.trace ≠ [] := by
  cases hj : s.cpu.jammed with
  | true => cases ho.symm.trans ((outcomeOfAStep s t h).1 hj).1
  | false =>
    rcases (outcomeOfAStep s t h).2 hj with ⟨htrap, -⟩ | ⟨htrace, -⟩
    · cases ho.symm.trans htrap
    · exact htrace

/-- What progress a run makes with an `Ok` step, and how far it can go past its budget. -/
theorem cycles_of_ok_step (h : step s = .next t) (ho : t.outcome = some .ok) :
    s.cycles < t.cycles ∧ t.cycles ≤ s.cycles + 7 := by
  obtain ⟨hcycles, hseven⟩ := cyclesCountAccesses s t h
  have := List.length_pos_iff.2 (trace_ne_nil_of_ok h ho)
  omega

/-- What holds of the last state of a run with a budget, for each way it can end; `reach` is a number of cycles that the
run's fuel covers. -/
def EndsAs (budget start reach : Nat) : RunEnd → State → Prop
  | .completed, t => budget ≤ t.cycles - start ∧ t.cycles - start ≤ budget + 6
  | .stopped o, t => t.outcome = some o ∧ o ≠ .ok
  | .outOfFuel, _ => reach < budget

/-- Every run with a budget ends in one of the three ways. The induction starts at any state at most six cycles over,
which an `Ok` step from a state within the budget gives again. -/
theorem runLoop_endsAs {budget reach : Nat} (hstart : start ≤ s.cycles) (hover : s.cycles - start ≤ budget + 6)
    (hreach : reach ≤ s.cycles - start + fuel) :
    ∃ e u, runLoop (some budget) start fuel s = .next (e, u) ∧ EndsAs budget start reach e u := by
  induction fuel generalizing s with
  | zero =>
    by_cases hc : BudgetConsumed (some budget) start s
    · exact ⟨_, _, runLoop_of_consumed hc, budgetConsumed_some.1 hc, hover⟩
    · have hleft := Nat.lt_of_not_le (mt budgetConsumed_some.2 hc)
      exact ⟨_, _, runLoop_zero hc, Nat.lt_of_le_of_lt hreach hleft⟩
  | succ fuel ih =>
    by_cases hc : BudgetConsumed (some budget) start s
    · exact ⟨_, _, runLoop_of_consumed hc, budgetConsumed_some.1 hc, hover⟩
    have hleft := Nat.lt_of_not_le (mt budgetConsumed_some.2 hc)
    obtain ⟨t, hs⟩ := step_next s
    obtain ⟨o, ho⟩ := exists_outcome_of_step hs
    by_cases hok : o = .ok
    · subst hok
      obtain ⟨hmore, hseven⟩ := cycles_of_ok_step hs ho
      rw [runLoop_succ_of_ok hc hs ho]
      exact ih (by omega) (by omega) (by omega)
    · exact ⟨_, _, runLoop_succ_of_not_ok hc hs ho hok, ho, hok⟩

end Run

/-- Settles O60: the bound and the outcome are of the one way in which the run ends; fuel of what is left of the budget
covers the budget, so that it cannot run out. -/
theorem runStopsAtBudgetOrTrap : Obligations.RunStopsAtBudgetOrTrap := by
  unfold Obligations.RunStopsAtBudgetOrTrap
  intro budget start fuel s t hstart hleft
  obtain ⟨e, u, hrun, hend⟩ :=
    runLoop_endsAs (budget := budget) (fuel := fuel) hstart (Nat.le_trans (Nat.le_of_lt hleft) (Nat.le_add_right _ _))
      (Nat.le_refl _)
  refine ⟨fun h => ?_, fun o h => ?_, fun hfuel => ⟨e, u, hrun, ?_⟩, fun hs limit hl => ?_⟩
  · cases next_inj h hrun
    exact hend
  · cases next_inj h hrun
    exact hend
  · cases e with
    | completed => exact .inl rfl
    | stopped o => exact .inr ⟨o, rfl⟩
    | outOfFuel =>
      have hcovered : s.cycles - start + fuel < budget := hend
      omega
  · have hc : ¬ BudgetConsumed limit start s := by
      rcases List.mem_cons.1 hl with rfl | hl
      · exact not_budgetConsumed_none
      · rw [List.mem_singleton.1 hl]
        exact mt budgetConsumed_some.1 (Nat.not_le_of_lt hleft)
    exact ⟨runLoop_succ_of_ok hc hs, fun o => runLoop_succ_of_not_ok hc hs⟩

/-- Settles O50: the second vector read is at `resetVector + 1`, of the bus as the first read leaves it. -/
theorem resetSetsTheListedValues : Obligations.ResetSetsTheListedValues := by
  unfold Obligations.ResetSetsTheListedValues
  exact fun s => rfl

/-- No option is one that `configure` accepts (70_reset_and_hazards.md R354). -/
theorem configure_eq_error (option value : String) (s : State) : configure option value s = (.configError, s) :=
  if_neg Bool.false_ne_true

theorem captureSnapshot_wf (h : Inv s) : (captureSnapshot s).wf := by
  obtain ⟨-, hb, hw, -, hB⟩ := h
  exact ⟨hB, hb, hw⟩

theorem captureSnapshot_restoreSnapshot (x : Snapshot) (s : State) : captureSnapshot (restoreSnapshot x s) = x := rfl

theorem restoreSnapshot_captureSnapshot (s : State) :
    restoreSnapshot (captureSnapshot s) s = { s with stepArmed := [] } := rfl

theorem hostCall_loadSnapshot_of_wf {x : Snapshot} (h : x.wf) :
    hostCall (.loadSnapshot x) s = .next (.done, restoreSnapshot x s) :=
  if_pos h

theorem hostCall_loadSnapshot_of_not_wf {x : Snapshot} (h : ¬ x.wf) :
    hostCall (.loadSnapshot x) s = .refused .invalidSnapshot :=
  if_neg h

/-- Settles O57: a snapshot is all of the tuple and nothing else, and its invariants are those that `Inv` says of it. -/
theorem snapshotsAndConfigure : Obligations.SnapshotsAndConfigure := by
  unfold Obligations.SnapshotsAndConfigure
  intro s x option value
  refine ⟨fun hx => ?_, hostCall_loadSnapshot_of_not_wf, fun hi => ?_, ?_⟩
  · exact ⟨_, hostCall_loadSnapshot_of_wf hx, captureSnapshot_restoreSnapshot x s, rfl, rfl, rfl⟩
  · exact ⟨captureSnapshot_wf hi, restoreSnapshot_captureSnapshot s⟩
  · exact congrArg Host.Outcome.next (configure_eq_error option value s)

end Sys2Proof.Machine
